-- ==== Sys2Proof/Word.lean ====
section
/-! DEFINITION. The word types of the hart (R11, R20, R21, R120): what the spec treats as bit vectors. -/

namespace Sys2Proof

/-- A 32-bit value: a general register, a CSR, an address, an instruction word (XLEN = 32, R3). -/
abbrev Word := BitVec 32

/-- One byte of memory; also one `pmpNcfg` (R162). -/
abbrev Byte := BitVec 8

/-- A 16-bit instruction parcel (R204). -/
abbrev Parcel := BitVec 16

/-- A 64-bit counter or timer register (R60, R61, R340, R342). -/
abbrev Dword := BitVec 64

/-- The number of a general register, `x0` to `x31` (R20); every value is a register. -/
abbrev Reg := BitVec 5

/-- A CSR address, `csr[11:0]` (R23). -/
abbrev CsrAddr := BitVec 12

end Sys2Proof
end

