-- ==== Sys2Proof/Syntax.lean ====
section
/-! DEFINITION. The instructions: one constructor per row of spec/opcode_table.json. Fields that the spec ignores
(FENCE, FENCE.I, the absent instructions) are kept, so that no bit of an encoding is lost. -/

namespace Sys2Proof

/-- An instruction. Jump and branch offsets are byte offsets; `WellFormed` says that they are even. -/
inductive Instr where
  -- Zicsr (R236 to R241)
  | csrrw (rd : Reg) (csr : CsrAddr) (rs1 : Reg)
  | csrrs (rd : Reg) (csr : CsrAddr) (rs1 : Reg)
  | csrrc (rd : Reg) (csr : CsrAddr) (rs1 : Reg)
  | csrrwi (rd : Reg) (csr : CsrAddr) (uimm : BitVec 5)
  | csrrsi (rd : Reg) (csr : CsrAddr) (uimm : BitVec 5)
  | csrrci (rd : Reg) (csr : CsrAddr) (uimm : BitVec 5)
  -- privileged instructions (R251 to R255)
  | ecall
  | ebreak
  | mret
  | sret
  | wfi
  | cEbreak
  -- privileged instructions of absent extensions (R257)
  | mnret
  | dret
  | sfenceVma (rs1 rs2 : Reg)
  | sinvalVma (rs1 rs2 : Reg)
  | sfenceWInval
  | sfenceInvalIr
  | hfenceVvma (rs1 rs2 : Reg)
  | hfenceGvma (rs1 rs2 : Reg)
  | hinvalVvma (rs1 rs2 : Reg)
  | hinvalGvma (rs1 rs2 : Reg)
  | sctrclr
  /-- The whole `funct3` = 100 subspace of SYSTEM: HLV, HLVX, HSV and the rest (R201, R208). -/
  | hlvHsv (funct7 : BitVec 7) (rs2 rs1 rd : Reg)
  -- the nine base instructions (R274 to R282)
  | lui (rd : Reg) (imm20 : BitVec 20)
  | auipc (rd : Reg) (imm20 : BitVec 20)
  | addi (rd rs1 : Reg) (imm12 : BitVec 12)
  | lw (rd rs1 : Reg) (imm12 : BitVec 12)
  | sw (rs2 rs1 : Reg) (imm12 : BitVec 12)
  | fence (rd rs1 : Reg) (fm pred succ : BitVec 4)
  | fenceI (rd rs1 : Reg) (imm12 : BitVec 12)
  | jal (rd : Reg) (offset : BitVec 21)
  | bne (rs1 rs2 : Reg) (offset : BitVec 13)
deriving DecidableEq, Repr

end Sys2Proof
end

