-- ==== Sys2Proof/WellFormed.lean ====
section
/-! DEFINITION. Which terms of `Instr` an encoding can hold: jump and branch offsets are multiples of 2 (R271);
every other field takes every value of its width. -/

namespace Sys2Proof

/-- The term is one that an encoding can hold. -/
def Instr.wellFormed : Instr → Bool
  | .jal _ offset => offset.extractLsb' 0 1 == 0#1
  | .bne _ _ offset => offset.extractLsb' 0 1 == 0#1
  | .csrrw .. | .csrrs .. | .csrrc .. | .csrrwi .. | .csrrsi .. | .csrrci .. => true
  | .ecall | .ebreak | .mret | .sret | .wfi | .cEbreak => true
  | .mnret | .dret | .sfenceVma .. | .sinvalVma .. | .sfenceWInval | .sfenceInvalIr => true
  | .hfenceVvma .. | .hfenceGvma .. | .hinvalVvma .. | .hinvalGvma .. | .sctrclr | .hlvHsv .. => true
  | .lui .. | .auipc .. | .addi .. | .lw .. | .sw .. | .fence .. | .fenceI .. => true

end Sys2Proof
end

