-- ==== Sys2Proof/Decode.lean ====
section
/-! DEFINITION. The decoder, total on any bytes and rejecting by name, and the encoder. Formats: R200 to R204, R271;
patterns: R206, R236 to R241, R274 to R282 and spec/opcode_table.json (general knowledge in the spec itself, log entry 32). -/

namespace Sys2Proof

/-- Why bits are no instruction of this spec. -/
inductive DecodeError where
  /-- A SYSTEM word with `funct3` = 000 that is no row: reserved, custom, or an exact pattern with a nonzero `rd` or `rs1` (R208). -/
  | reservedSystem
  /-- A floating-point or vector instruction, 32 or 16 bits wide: its extension's status is Off (R39, R272, conflict C10; log
  entry 28). -/
  | floatOrVector
  /-- Bits 4:0 = 11111: longer encodings are not used (R204); 0xFFFFFFFF is one (R210). -/
  | longEncoding
  /-- The 16-bit parcel 0x0000, "defined illegal instruction" (R204, R210). -/
  | definedIllegal
  /-- A 32-bit word of the unprivileged set that this spec does not give (R210). -/
  | outsideSpecWord
  /-- A 16-bit instruction other than C.EBREAK (R204, R210). -/
  | outsideSpecParcel
  /-- Fewer bytes than the instruction's length. -/
  | truncated
deriving DecidableEq, Repr

/-- What decoding one instruction's bits answers. -/
inductive Decoded where
  | instr (i : Instr)
  | reject (e : DecodeError)
deriving DecidableEq, Repr

/-- The bits of one instruction as fetch delivers them (R130): one parcel, or a 32-bit word. -/
inductive RawInstr where
  | parcel (p : Parcel)
  | word (w : Word)
deriving DecidableEq, Repr

/-! ### Fields (R200) -/

def opcodeOf (w : Word) : BitVec 7 := w.extractLsb' 0 7
def rdOf (w : Word) : Reg := w.extractLsb' 7 5
def funct3Of (w : Word) : BitVec 3 := w.extractLsb' 12 3
def rs1Of (w : Word) : Reg := w.extractLsb' 15 5
def rs2Of (w : Word) : Reg := w.extractLsb' 20 5
def funct7Of (w : Word) : BitVec 7 := w.extractLsb' 25 7
/-- `funct12`, `csr` and the I-type immediate: bits 31:20. -/
def funct12Of (w : Word) : BitVec 12 := w.extractLsb' 20 12
/-- The U-type immediate: bits 31:12. -/
def imm20Of (w : Word) : BitVec 20 := w.extractLsb' 12 20
/-- The S-type immediate (R271). -/
def immSOf (w : Word) : BitVec 12 := w.extractLsb' 25 7 ++ w.extractLsb' 7 5
/-- The B-type offset (R271), bit 0 zero. -/
def offsetBOf (w : Word) : BitVec 13 :=
  w.extractLsb' 31 1 ++ w.extractLsb' 7 1 ++ w.extractLsb' 25 6 ++ w.extractLsb' 8 4 ++ 0#1
/-- The J-type offset (R271), bit 0 zero. -/
def offsetJOf (w : Word) : BitVec 21 :=
  w.extractLsb' 31 1 ++ w.extractLsb' 12 8 ++ w.extractLsb' 20 1 ++ w.extractLsb' 21 10 ++ 0#1

/-! ### Decoding -/

/-- `funct3` = 000 under SYSTEM: the PRIV listing of R206; every other word is reserved (R208). -/
def decodePriv (w : Word) : Decoded :=
  if rdOf w ≠ 0#5 then .reject .reservedSystem
  else if funct7Of w = 0b0001001#7 then .instr (.sfenceVma (rs1Of w) (rs2Of w))
  else if funct7Of w = 0b0001011#7 then .instr (.sinvalVma (rs1Of w) (rs2Of w))
  else if funct7Of w = 0b0010001#7 then .instr (.hfenceVvma (rs1Of w) (rs2Of w))
  else if funct7Of w = 0b0110001#7 then .instr (.hfenceGvma (rs1Of w) (rs2Of w))
  else if funct7Of w = 0b0010011#7 then .instr (.hinvalVvma (rs1Of w) (rs2Of w))
  else if funct7Of w = 0b0110011#7 then .instr (.hinvalGvma (rs1Of w) (rs2Of w))
  else if rs1Of w ≠ 0#5 then .reject .reservedSystem
  else if funct12Of w = 0x000#12 then .instr .ecall
  else if funct12Of w = 0x001#12 then .instr .ebreak
  else if funct12Of w = 0x102#12 then .instr .sret
  else if funct12Of w = 0x302#12 then .instr .mret
  else if funct12Of w = 0x105#12 then .instr .wfi
  else if funct12Of w = 0x702#12 then .instr .mnret
  else if funct12Of w = 0x180#12 then .instr .sfenceWInval
  else if funct12Of w = 0x181#12 then .instr .sfenceInvalIr
  else if funct12Of w = 0x104#12 then .instr .sctrclr
  else if funct12Of w = 0x7B2#12 then .instr .dret
  else .reject .reservedSystem

/-- The SYSTEM major opcode by `funct3` (R201). -/
def decodeSystem (w : Word) : Decoded :=
  if funct3Of w = 0b000#3 then decodePriv w
  else if funct3Of w = 0b001#3 then .instr (.csrrw (rdOf w) (funct12Of w) (rs1Of w))
  else if funct3Of w = 0b010#3 then .instr (.csrrs (rdOf w) (funct12Of w) (rs1Of w))
  else if funct3Of w = 0b011#3 then .instr (.csrrc (rdOf w) (funct12Of w) (rs1Of w))
  else if funct3Of w = 0b100#3 then .instr (.hlvHsv (funct7Of w) (rs2Of w) (rs1Of w) (rdOf w))
  else if funct3Of w = 0b101#3 then .instr (.csrrwi (rdOf w) (funct12Of w) (rs1Of w))
  else if funct3Of w = 0b110#3 then .instr (.csrrsi (rdOf w) (funct12Of w) (rs1Of w))
  else .instr (.csrrci (rdOf w) (funct12Of w) (rs1Of w))

/-- The major opcodes of floating-point and vector instructions: LOAD-FP, STORE-FP, MADD, MSUB, NMSUB, NMADD, OP-FP,
OP-V, OP-VE. PRESUMED: the family's opcode map (log entry 28); unsafe if a chip used one otherwise. -/
def isFloatOrVectorOpcode (op : BitVec 7) : Bool :=
  op == 0b0000111#7 || op == 0b0100111#7 || op == 0b1000011#7 || op == 0b1000111#7 ||
  op == 0b1001011#7 || op == 0b1001111#7 || op == 0b1010011#7 || op == 0b1010111#7 || op == 0b1110111#7

/-- The 32-bit words by major opcode (R213). -/
def decodeWord (w : Word) : Decoded :=
  let op := opcodeOf w
  if op = 0b1110011#7 then decodeSystem w
  else if op = 0b0110111#7 then .instr (.lui (rdOf w) (imm20Of w))
  else if op = 0b0010111#7 then .instr (.auipc (rdOf w) (imm20Of w))
  else if op = 0b1101111#7 then .instr (.jal (rdOf w) (offsetJOf w))
  else if op = 0b0010011#7 then
    if funct3Of w = 0b000#3 then .instr (.addi (rdOf w) (rs1Of w) (funct12Of w)) else .reject .outsideSpecWord
  else if op = 0b0000011#7 then
    if funct3Of w = 0b010#3 then .instr (.lw (rdOf w) (rs1Of w) (funct12Of w)) else .reject .outsideSpecWord
  else if op = 0b0100011#7 then
    if funct3Of w = 0b010#3 then .instr (.sw (rs2Of w) (rs1Of w) (immSOf w)) else .reject .outsideSpecWord
  else if op = 0b1100011#7 then
    if funct3Of w = 0b001#3 then .instr (.bne (rs1Of w) (rs2Of w) (offsetBOf w)) else .reject .outsideSpecWord
  else if op = 0b0001111#7 then
    if funct3Of w = 0b000#3 then
      .instr (.fence (rdOf w) (rs1Of w) (w.extractLsb' 28 4) (w.extractLsb' 24 4) (w.extractLsb' 20 4))
    else if funct3Of w = 0b001#3 then .instr (.fenceI (rdOf w) (rs1Of w) (funct12Of w))
    else .reject .outsideSpecWord
  else if isFloatOrVectorOpcode op then .reject .floatOrVector
  else if w.extractLsb' 0 5 = 0b11111#5 then .reject .longEncoding
  else .reject .outsideSpecWord

/-- The 16-bit floating-point loads and stores, by quadrant (bits 1:0) and `funct3` (bits 15:13): C.FLD, C.FLW, C.FSD and C.FSW
in quadrant 0, C.FLDSP, C.FLWSP and C.FSWSP in quadrant 2. PRESUMED: the family's compressed map (log entry 28); unsafe if
a chip used one otherwise. Quadrant 2, `funct3` = 101 is not among them: it is C.FSDSP only where Zcmp and Zcmt are absent,
which the spec does not say. -/
def isFloatParcel (p : Parcel) : Bool :=
  let quadrant := p.extractLsb' 0 2
  let funct3 := p.extractLsb' 13 3
  (quadrant == 0b00#2 && (funct3 == 0b001#3 || funct3 == 0b011#3 || funct3 == 0b101#3 || funct3 == 0b111#3)) ||
    (quadrant == 0b10#2 && (funct3 == 0b001#3 || funct3 == 0b011#3 || funct3 == 0b111#3))

/-- The 16-bit parcels whose bits 1:0 are not 11: C.EBREAK, the defined illegal instruction, floating-point loads and stores
(R204, R272). -/
def decodeParcel (p : Parcel) : Decoded :=
  if p = 0x9002#16 then .instr .cEbreak
  else if p = 0x0000#16 then .reject .definedIllegal
  else if isFloatParcel p then .reject .floatOrVector
  else .reject .outsideSpecParcel

/-- Decoding is a function of the instruction's bits alone (R211). -/
def decodeRaw : RawInstr → Decoded
  | .parcel p => decodeParcel p
  | .word w => decodeWord w

/-- "a parcel of 16 bits at `pc` whose bits 1:0 are not 11 is a complete 16-bit (compressed) instruction" (R204). -/
def isCompressed (p : Parcel) : Bool := p.extractLsb' 0 2 != 0b11#2

/-- What decoding a string of bytes answers: the instruction and the bytes that follow it, or the reason it is none. -/
inductive DecodedBytes where
  | instr (i : Instr) (rest : List Byte)
  | reject (e : DecodeError)
deriving DecidableEq, Repr

/-- Attach the remaining bytes to a decoded instruction. -/
def Decoded.followedBy (rest : List Byte) : Decoded → DecodedBytes
  | .instr i => .instr i rest
  | .reject e => .reject e

/-- The decoder on bytes in memory order, little-endian (R121, R204). -/
def decode : List Byte → DecodedBytes
  | b0 :: b1 :: rest =>
    if isCompressed (b1 ++ b0) then (decodeParcel (b1 ++ b0)).followedBy rest
    else
      match rest with
      | b2 :: b3 :: rest' => (decodeWord (b3 ++ b2 ++ b1 ++ b0)).followedBy rest'
      | _ => .reject .truncated
  | _ => .reject .truncated

/-! ### Encoding -/

/-- The I format (R200). -/
def encodeI (imm : BitVec 12) (rs1 : Reg) (funct3 : BitVec 3) (rd : Reg) (opcode : BitVec 7) : Word :=
  imm ++ rs1 ++ funct3 ++ rd ++ opcode

/-- The R format (R200). -/
def encodeR (funct7 : BitVec 7) (rs2 rs1 : Reg) (funct3 : BitVec 3) (rd : Reg) (opcode : BitVec 7) : Word :=
  funct7 ++ rs2 ++ rs1 ++ funct3 ++ rd ++ opcode

/-- The S format (R200). -/
def encodeS (imm : BitVec 12) (rs2 rs1 : Reg) (funct3 : BitVec 3) (opcode : BitVec 7) : Word :=
  imm.extractLsb' 5 7 ++ rs2 ++ rs1 ++ funct3 ++ imm.extractLsb' 0 5 ++ opcode

/-- The B format (R200). -/
def encodeB (offset : BitVec 13) (rs2 rs1 : Reg) (funct3 : BitVec 3) (opcode : BitVec 7) : Word :=
  offset.extractLsb' 12 1 ++ offset.extractLsb' 5 6 ++ rs2 ++ rs1 ++ funct3 ++
    offset.extractLsb' 1 4 ++ offset.extractLsb' 11 1 ++ opcode

/-- The U format (R200). -/
def encodeU (imm : BitVec 20) (rd : Reg) (opcode : BitVec 7) : Word :=
  imm ++ rd ++ opcode

/-- The J format (R200). -/
def encodeJ (offset : BitVec 21) (rd : Reg) (opcode : BitVec 7) : Word :=
  offset.extractLsb' 20 1 ++ offset.extractLsb' 1 10 ++ offset.extractLsb' 11 1 ++ offset.extractLsb' 12 8 ++ rd ++ opcode

/-- A PRIV instruction named by `funct12` (R206). -/
def encodePriv (funct12 : BitVec 12) : Word := encodeI funct12 0#5 0b000#3 0#5 0b1110011#7

/-- The bits of an instruction: R206 and the encodings of R236 to R241 and R274 to R282. -/
def encodeRaw : Instr → RawInstr
  | .csrrw rd csr rs1 => .word (encodeI csr rs1 0b001#3 rd 0b1110011#7)
  | .csrrs rd csr rs1 => .word (encodeI csr rs1 0b010#3 rd 0b1110011#7)
  | .csrrc rd csr rs1 => .word (encodeI csr rs1 0b011#3 rd 0b1110011#7)
  | .csrrwi rd csr uimm => .word (encodeI csr uimm 0b101#3 rd 0b1110011#7)
  | .csrrsi rd csr uimm => .word (encodeI csr uimm 0b110#3 rd 0b1110011#7)
  | .csrrci rd csr uimm => .word (encodeI csr uimm 0b111#3 rd 0b1110011#7)
  | .ecall => .word (encodePriv 0x000#12)
  | .ebreak => .word (encodePriv 0x001#12)
  | .mret => .word (encodePriv 0x302#12)
  | .sret => .word (encodePriv 0x102#12)
  | .wfi => .word (encodePriv 0x105#12)
  | .cEbreak => .parcel 0x9002#16
  | .mnret => .word (encodePriv 0x702#12)
  | .dret => .word (encodePriv 0x7B2#12)
  | .sfenceVma rs1 rs2 => .word (encodeR 0b0001001#7 rs2 rs1 0b000#3 0#5 0b1110011#7)
  | .sinvalVma rs1 rs2 => .word (encodeR 0b0001011#7 rs2 rs1 0b000#3 0#5 0b1110011#7)
  | .sfenceWInval => .word (encodePriv 0x180#12)
  | .sfenceInvalIr => .word (encodePriv 0x181#12)
  | .hfenceVvma rs1 rs2 => .word (encodeR 0b0010001#7 rs2 rs1 0b000#3 0#5 0b1110011#7)
  | .hfenceGvma rs1 rs2 => .word (encodeR 0b0110001#7 rs2 rs1 0b000#3 0#5 0b1110011#7)
  | .hinvalVvma rs1 rs2 => .word (encodeR 0b0010011#7 rs2 rs1 0b000#3 0#5 0b1110011#7)
  | .hinvalGvma rs1 rs2 => .word (encodeR 0b0110011#7 rs2 rs1 0b000#3 0#5 0b1110011#7)
  | .sctrclr => .word (encodePriv 0x104#12)
  | .hlvHsv funct7 rs2 rs1 rd => .word (encodeR funct7 rs2 rs1 0b100#3 rd 0b1110011#7)
  | .lui rd imm20 => .word (encodeU imm20 rd 0b0110111#7)
  | .auipc rd imm20 => .word (encodeU imm20 rd 0b0010111#7)
  | .addi rd rs1 imm12 => .word (encodeI imm12 rs1 0b000#3 rd 0b0010011#7)
  | .lw rd rs1 imm12 => .word (encodeI imm12 rs1 0b010#3 rd 0b0000011#7)
  | .sw rs2 rs1 imm12 => .word (encodeS imm12 rs2 rs1 0b010#3 0b0100011#7)
  | .fence rd rs1 fm pred succ => .word (encodeI (fm ++ pred ++ succ) rs1 0b000#3 rd 0b0001111#7)
  | .fenceI rd rs1 imm12 => .word (encodeI imm12 rs1 0b001#3 rd 0b0001111#7)
  | .jal rd offset => .word (encodeJ offset rd 0b1101111#7)
  | .bne rs1 rs2 offset => .word (encodeB offset rs2 rs1 0b001#3 0b1100011#7)

/-- The 16-bit parcels of raw bits, the one at the lower address first (R121, R204). -/
def RawInstr.parcels : RawInstr → List Parcel
  | .parcel p => [p]
  | .word w => [w.extractLsb' 0 16, w.extractLsb' 16 16]

/-- The instruction's words (16-bit parcels) in memory order. -/
def encode (i : Instr) : List Parcel := (encodeRaw i).parcels

/-- The two bytes of a parcel, little-endian (R121). -/
def parcelBytes (p : Parcel) : List Byte := [p.extractLsb' 0 8, p.extractLsb' 8 8]

/-- The bytes of a list of parcels in memory order. -/
def parcelsBytes (ps : List Parcel) : List Byte := ps.flatMap parcelBytes

/-- The length in bytes of raw bits, `ilen` (R12, R204). -/
def RawInstr.ilen : RawInstr → Nat
  | .parcel _ => 2
  | .word _ => 4

/-! ### The table's numbering of bits -/

/-- The four bytes, lowest address first, of an instruction whose bits are the low `nbits` of `w`. -/
def tableBytes (nbits w : Nat) : List Byte :=
  let v : Word := BitVec.ofNat 32 (w % 2 ^ nbits)
  parcelsBytes [v.extractLsb' 0 16, v.extractLsb' 16 16]

/-- The instruction the decoder reads from an instruction whose bits, numbered as spec/opcode_table.json numbers
them, are `w`. -/
def decodeTableWord (nbits w : Nat) : Option Instr :=
  match decode (tableBytes nbits w) with
  | .instr i _ => some i
  | .reject _ => none

end Sys2Proof
end

