-- ==== Sys2Proof/Config.lean ====
section
/-! DEFINITION. What an implementation or its platform fixes, and what the spec leaves free.
Scalar and finite parameters are plain data in `Params`, held in the state, so that a statement about
every state holds for every choice of them (log entry 8). Parameters that are functions, and the values
nothing determines, are constants without a body: no proof can see their values (log entries 9, 11, 13, 14). -/

namespace Sys2Proof.Config

/-- The type of a memory access, as the PMP and the PMA checkers distinguish it (R127, R175). -/
inductive AccessType where
  | read
  | write
  | execute
deriving DecidableEq, Repr

/-- The two classes of physical address range (R126). -/
inductive RegionKind where
  /-- Main memory: "always support read and write of all access widths"; `fetch` says whether instruction fetch is supported. -/
  | main (fetch : Bool)
  /-- An I/O region with the combinations of access type and width in bytes it supports; none for a former vacant region. -/
  | io (supported : List (AccessType × Nat))
deriving DecidableEq, Repr

/-- A range of the physical address space with its attributes (R126). Addresses are byte addresses. -/
structure Region where
  base : Nat
  size : Nat
  kind : RegionKind
deriving DecidableEq, Repr

/-- The platform's and the implementation's parameters (R9; spec/92_eei_decisions.md section 2), fixed for a run. -/
structure Params where
  /-- `MISA_EXT` bit E instead of bit I: "Exactly one of bits 8 (I) and 4 (E) is 1" (R30). -/
  baseE : Bool
  /-- `MISA_EXT` bit 12 (M). -/
  extM : Bool
  /-- `MISA_EXT` bit 2 (C); it fixes `IALIGN` (R204). -/
  extC : Bool
  /-- `MISA_EXT` bit 1 (B). -/
  extB : Bool
  /-- `MISA_EXT` bit 23 (X). -/
  extX : Bool
  /-- `HAS_NMI` and `NMI_VECTOR` (R335): no NMI input, or one with this vector. -/
  nmi : Option Word
  /-- `MTIME_ADDR` (R340). -/
  mtimeAddr : Word
  /-- `MTIMECMP_ADDR` (R342). -/
  mtimecmpAddr : Word
  /-- `HAS_ZICNTR` (R66, R106). -/
  hasZicntr : Bool
  /-- `HAS_ZIHPM` (R66, R106). -/
  hasZihpm : Bool
  /-- `HAS_TRIGGERS` (R9, R106). -/
  hasTriggers : Bool
  /-- `HAS_SSP` (R106). -/
  hasSsp : Bool
  /-- `HAS_JVT` (R106). -/
  hasJvt : Bool
  /-- The physical memory map with its attributes: the data behind `pma_ok` (R126, R127). An address in no region is not accessible. -/
  pma : List Region
deriving DecidableEq, Repr

/-- The parameters of `State.reset`, where the spec names none. PRESUMED: the suggested values of
spec/92_eei_decisions.md section 2 for the extensions and the optional CSR groups (log entries 4, 6).
DESIGN CHOICE: no NMI input (log entry 6), the timer addresses (log entry 5), and main memory with
instruction fetch over the whole space (log entry 7). Unsafe, each as its entry says. -/
def Params.atReset : Params where
  baseE := false
  extM := true
  extC := true
  extB := true
  extX := false
  nmi := none
  mtimeAddr := 0x02004008#32
  mtimecmpAddr := 0x02004000#32
  hasZicntr := true
  hasZihpm := false
  hasTriggers := false
  hasSsp := false
  hasJvt := false
  pma := [{ base := 0, size := 2 ^ 32, kind := .main true }]

/-- What the platform and the implementation choose at one instruction boundary: the inputs and the draws of
spec/92_eei_decisions.md section 2. Every value of this type is allowed by the spec. -/
structure Draw where
  /-- How much `mtime` advances before the next boundary (R341), one more than this where its wait has run out. -/
  mtimeTicks : Nat
  /-- The finite number of boundaries `mtime` may stand still before it must advance again (R341, R392). -/
  mtimeWait : Nat
  /-- How much `mcycle` advances before the next boundary (R347). -/
  cycles : Nat
  /-- The level of `ext_irq` at the next boundary (R321). -/
  extIrq : Bool
  /-- Whether an NMI is requested at the next boundary (R335); ignored without an NMI input. -/
  nmi : Bool
  /-- The finite delay after which `mtip_line` follows the comparison (R343). -/
  mtipDelay : Nat
  /-- The finite number of boundaries an interrupt that became takeable asynchronously may be let pass (R323). -/
  irqDelay : Nat
  /-- Whether a WFI executed here stalls (R255). -/
  wfiStall : Bool
  /-- Whether a stalled WFI resumes here although nothing requires it (R255). -/
  wfiWake : Bool
  /-- `mstatus.MIE` after an NMI taken here (R335). -/
  nmiMie : Bool
  /-- `mstatus.MPIE` after an NMI taken here (R335). -/
  nmiMpie : Bool
  /-- Which outcome has a fetch whose bytes lie in different PMP ranges: `true`, it succeeds (R130, D18). -/
  fetchSplit : Bool
  /-- Which cause has a misaligned access whose bytes lie in different PMP ranges: `true`, misaligned (R131, D18). -/
  dataSplit : Bool
deriving DecidableEq, Repr, Inhabited

/-- The draws at each boundary where the state supplies no trace. No body: nothing constrains them (R341, R321,
R343, R323, R255, R335; log entry 9). -/
opaque draw : Nat → Draw

/-- Which values beyond the minimum of D9 are in `MCAUSE_LEGAL` (R46). No body (log entry 13). -/
opaque mcauseExtra : Word → Bool

/-- The choice behind `pmp_legalize(old_byte, written_byte)` for an illegal written byte (R165, R166). No body (log entry 14). -/
opaque pmpChoice : Byte → Byte → Byte

/-- The initial content of memory at a byte address that no image lists (R372). No body (log entry 11). -/
opaque initialByte : Nat → Byte

end Sys2Proof.Config
end

