-- ==== Sys2Proof/Machine/State.lean ====
section
/-! DEFINITION. The state of the hart and of the platform devices its rules read, as plain data; the reasons a step can stop;
the state right after reset. Constant registers and read-only-zero fields have no storage: the one operation that reads
CSRs (`State.csrRead`) supplies them. -/

namespace Sys2Proof.Machine

/-- The privilege modes of Table 1 (R22, R302). This hart is always in `machine`; no instruction or event changes that. -/
inductive PrivMode where
  | user
  | supervisor
  | machine
deriving DecidableEq, Repr

/-- Memory as (byte address, byte) pairs. An address that is not listed holds no value of the model's: it reads as
the free value `Config.initialByte` of that address (R372; log entry 11). -/
abbrev Memory := List Host.Cell

/-- The canonical form: addresses strictly rising, all within the 32-bit address space (R120). -/
abbrev Memory.wf (m : Memory) : Prop :=
  (m.map Prod.fst).Pairwise (· < ·) ∧ ∀ c ∈ m, c.1 < 2 ^ 32

/-- The machine's state. The fields after `cfg` are the model's own (log entry 10). -/
structure State where
  /-- `x1` to `x31`, in that order (R20). `x0` has no storage. Where `misa` has E the file ends at `x15`, and no instruction
  reaches the places above it (`registersExist`). -/
  gpr : Vector Word 31
  /-- The address of the instruction about to execute (R21). -/
  pc : Word
  /-- The privilege mode (R22). -/
  priv : PrivMode
  /-- `mstatus.MIE` (R36, R37). -/
  mstatusMie : Bool
  /-- `mstatus.MPIE` (R36, R37). -/
  mstatusMpie : Bool
  /-- `mtvec.BASE`, bits 31:2 of the trap target (R40). -/
  mtvecBase : BitVec 30
  /-- `mie.MEIE` (R42). -/
  mieMeie : Bool
  /-- `mie.MTIE` (R42). -/
  mieMtie : Bool
  /-- `mscratch` (R44). -/
  mscratch : Word
  /-- `mepc` (R45). -/
  mepc : Word
  /-- `mcause` (R46). -/
  mcause : Word
  /-- `mcycle` and `mcycleh` (R60). -/
  mcycle : Dword
  /-- `minstret` and `minstreth` (R61). -/
  minstret : Dword
  /-- `pmp0cfg` to `pmp7cfg` (R160, R162). -/
  pmpcfg : Vector Byte 8
  /-- `pmpaddr0` to `pmpaddr7` (R163). -/
  pmpaddr : Vector Word 8
  /-- The input `ext_irq` (R75, R321). -/
  extIrq : Bool
  /-- The memory-mapped `mtime` (R75, R340). -/
  mtime : Dword
  /-- The memory-mapped `mtimecmp` (R75, R342). -/
  mtimecmp : Dword
  /-- `mtip_line`, the value `mip.MTIP` shows (R75, R343). -/
  mtipLine : Bool
  /-- The input `nmi_pending` (R75, R335). -/
  nmiPending : Bool
  /-- Whether the hart is stalled in a WFI (R75, R255). -/
  wfiStalled : Bool
  /-- Main memory (R120). -/
  mem : Memory
  /-- The byte addresses stored to since the last FENCE.I, strictly rising (R143). -/
  stored : List Nat
  /-- The platform's and the implementation's parameters (R9), fixed for a run: no step changes them. -/
  cfg : Config.Params
  /-- How many more boundaries a takeable interrupt may be let pass (R323). -/
  irqDelay : Nat
  /-- The interrupt test at the next boundary is immediate (R324). -/
  irqNow : Bool
  /-- How many more boundaries `mtipLine` may lag behind the comparison (R343). -/
  mtipDelay : Nat
  /-- How many more boundaries `mtime` may stand still (R341, R392). -/
  mtimeWait : Nat
  /-- An instruction has just written `mcycle` or `mcycleh`: the tick that follows leaves the written value (D21). -/
  cycleHeld : Bool
  /-- The index of this boundary: the argument of `Config.draw`. -/
  boundary : Nat
  /-- A supplied input trace (R321): the draws of the boundaries to come, before `Config.draw` takes over. -/
  trace : List Config.Draw
deriving DecidableEq, Repr

/-- Why the machine stops with a fault. There is no such reason: "The hart starts at reset and never stops" (R351);
every failed access is a synchronous exception, which is a next state (log entry 37). Safe: nothing is cut short. -/
inductive Fault where
deriving DecidableEq, Repr

/-- Why a step has no meaning in the model. Every one is safe: the model stops where the hardware would go on. -/
inductive Refusal where
  /-- An instruction whose meaning is not written yet; raised by no arm of `exec`. Safe. -/
  | notModelled (mnemonic : String)
  /-- A 32-bit word of the unprivileged set that the spec does not give; raised by the step after decoding (R210, D26). Safe. -/
  | wordOutsideSpec
  /-- A 16-bit instruction other than C.EBREAK where IALIGN = 16; raised by the step after decoding (R210, D26). Safe. -/
  | parcelOutsideSpec
  /-- A fetch of a byte the hart has stored to since its last FENCE.I; raised by fetch (R143, D20). Safe. -/
  | storedByteFetched
  /-- A 32-bit instruction whose bytes wrap past 0xFFFFFFFF; raised by fetch (D17, U26). Safe. -/
  | fetchWrapsTop
  /-- A fetch from the timer registers, an access they do not define; raised by fetch (R341, D27). Safe. -/
  | timerFetched
  /-- A misaligned load or store that passes its access-fault checks and touches a timer register; raised by LW and SW (R341,
  D27). Safe. -/
  | timerMisaligned
  /-- A CSR of the trigger unit where `HAS_TRIGGERS`; raised by the CSR instructions (R106, D13). Safe. -/
  | triggerCsr
  /-- The CSR `ssp` where `HAS_SSP`; raised by the CSR instructions (R106, D33). Safe. -/
  | shadowStackCsr
  /-- The CSR `jvt` where `HAS_JVT`; raised by the CSR instructions (R106, D33). Safe. -/
  | tableJumpCsr
deriving DecidableEq, Repr

/-- The outcome of an instruction or of a step. -/
abbrev Result := Host.Outcome State Fault Refusal

/-- The machine right after reset (R370, R80): `pc`, `priv`, `mstatus.MIE`, `mcause`, the PMP fields A and L and
`wfi_stalled` as the spec states them. DESIGN CHOICE, unsafe: every value the spec leaves unspecified is zero
(log entries 1, 2, 3, 10), and the parameters are `Config.Params.atReset` (log entries 4 to 8).
`Safety.IsResetState` describes every state the spec allows after reset. -/
def State.reset : State where
  gpr := Vector.replicate 31 0#32
  pc := 0x80000000#32
  priv := .machine
  mstatusMie := false
  mstatusMpie := false
  mtvecBase := 0#30
  mieMeie := false
  mieMtie := false
  mscratch := 0#32
  mepc := 0#32
  mcause := 0#32
  mcycle := 0#64
  minstret := 0#64
  pmpcfg := Vector.replicate 8 0#8
  pmpaddr := Vector.replicate 8 0#32
  extIrq := false
  mtime := 0#64
  mtimecmp := 0#64
  mtipLine := false
  nmiPending := false
  wfiStalled := false
  mem := []
  stored := []
  cfg := Config.Params.atReset
  irqDelay := 0
  irqNow := false
  mtipDelay := 0
  mtimeWait := 0
  cycleHeld := false
  boundary := 0
  trace := []

end Sys2Proof.Machine
end

