-- ==== Sys2Proof/Machine/Flags.lean ====
section
/-! DEFINITION. The architecture has no condition codes (R273). What plays their part are the status words and conditions that
the hardware computes from state bits: `mstatus`, `mip`, `mie`, the timer comparison, the interrupt condition. -/

namespace Sys2Proof.Machine

/-- A bit of a 32-bit word: `b` at position `i`, every other bit zero. -/
def bitAt (i : Nat) (b : Bool) : Word := if b then (1#32) <<< i else 0#32

/-- The value a read of `mstatus` returns: `0x00001800 | (MPIE << 7) | (MIE << 3)` (R36). -/
def State.mstatusWord (s : State) : Word :=
  0x00001800#32 ||| bitAt 7 s.mstatusMpie ||| bitAt 3 s.mstatusMie

/-- The value a read of `mip` returns: `(MEIP << 11) | (MTIP << 7)`, the current input levels (R41). -/
def State.mipWord (s : State) : Word :=
  bitAt 11 s.extIrq ||| bitAt 7 s.mtipLine

/-- The value a read of `mie` returns: `(MEIE << 11) | (MTIE << 7)` (R42). -/
def State.mieWord (s : State) : Word :=
  bitAt 11 s.mieMeie ||| bitAt 7 s.mieMtie

/-- The value a read of `misa` returns: MXL = 1 and `MISA_EXT` (R30). The letters A, D, F, H, Q, S, U, V and the
reserved ones are 0, and exactly one of I and E is 1. -/
def misaWord (cfg : Config.Params) : Word :=
  0x40000000#32 ||| bitAt 1 cfg.extB ||| bitAt 2 cfg.extC ||| bitAt 4 cfg.baseE ||| bitAt 8 (!cfg.baseE) |||
    bitAt 12 cfg.extM ||| bitAt 23 cfg.extX

/-- The timer comparison `mtime >= mtimecmp`, "treating the values as unsigned integers" (R343). -/
def timerCondition (mtime mtimecmp : Dword) : Bool := mtimecmp.ule mtime

/-- `(mip & mie) != 0`, whatever `mstatus.MIE` is: what WFI must resume for (R320, R255). -/
def State.pendingEnabled (s : State) : Bool :=
  (s.mieMeie && s.extIrq) || (s.mieMtie && s.mtipLine)

/-- `takeable(i)` holds for some interrupt `i` (R320). -/
def State.takeable (s : State) : Bool := s.mstatusMie && s.pendingEnabled

end Sys2Proof.Machine
end

