-- ==== Sys2Proof/Machine/Memory.lean ====
section
/-! DEFINITION. Memory by the byte: lookup, write, the stored-to marking, and little-endian words (R120, R121, R143). -/

namespace Sys2Proof.Machine

/-- The byte listed at an address, if one is. -/
def Memory.readByte : Memory → Nat → Option Byte
  | [], _ => none
  | (k, b) :: m, a => if k = a then some b else Memory.readByte m a

/-- List a byte at an address, in place of the one listed there before. -/
def Memory.writeByte : Memory → Nat → Byte → Memory
  | [], a, v => [(a, v)]
  | (k, b) :: m, a, v =>
    if a < k then (a, v) :: (k, b) :: m
    else if a = k then (a, v) :: m
    else (k, b) :: Memory.writeByte m a v

/-- Add an address to a strictly rising list of addresses. -/
def markStored : List Nat → Nat → List Nat
  | [], a => [a]
  | k :: l, a => if a < k then a :: k :: l else if a = k then k :: l else k :: markStored l a

/-- The byte of main memory at an address: the one last written, else the initial content, a free value (R140, R372). -/
def State.byteAt (s : State) (a : Word) : Byte :=
  (s.mem.readByte a.toNat).getD (Config.initialByte a.toNat)

/-- The address of byte `k` of an access (R175: modulo 2^32). -/
def byteAddress (a : Word) (k : Nat) : Word := a + BitVec.ofNat 32 k

/-- The four bytes at an address as a little-endian word (R121). -/
def State.ramWord (s : State) (a : Word) : Word :=
  s.byteAt (byteAddress a 3) ++ s.byteAt (byteAddress a 2) ++ s.byteAt (byteAddress a 1) ++ s.byteAt a

/-- Write a word little-endian at the four bytes from an address: bits 8k+7:8k at byte `k` (R121). -/
def Memory.writeWord (m : Memory) (a v : Word) : Memory :=
  (((m.writeByte a.toNat (v.extractLsb' 0 8)).writeByte (byteAddress a 1).toNat (v.extractLsb' 8 8)).writeByte
    (byteAddress a 2).toNat (v.extractLsb' 16 8)).writeByte (byteAddress a 3).toNat (v.extractLsb' 24 8)

/-- Mark the four bytes from an address as stored to (R143). -/
def markWord (l : List Nat) (a : Word) : List Nat :=
  markStored (markStored (markStored (markStored l a.toNat) (byteAddress a 1).toNat) (byteAddress a 2).toNat)
    (byteAddress a 3).toNat

/-- Store a word at four bytes of main memory and mark them as stored to (R131, R143). -/
def State.storeRamWord (s : State) (a v : Word) : State :=
  { s with mem := s.mem.writeWord a v, stored := markWord s.stored a }

/-- The 16-bit parcel at an address, little-endian (R121, R130). -/
def State.parcelAt (s : State) (a : Word) : Parcel :=
  s.byteAt (byteAddress a 1) ++ s.byteAt a

/-- Place bytes in memory from outside the machine, the first at the given address: a loaded image, which is no store of the
hart's, so that the bytes count as not stored to (R372, R143). -/
def State.placeBytes (s : State) (a : Word) : List Byte → State
  | [] => s
  | b :: bs =>
    State.placeBytes
      { s with mem := s.mem.writeByte a.toNat b, stored := s.stored.filter (fun k => k ≠ a.toNat) }
      (byteAddress a 1) bs

end Sys2Proof.Machine
end

