-- ==== Sys2Proof/Machine/Pmp.lean ====
section
/-! DEFINITION. Physical memory protection (spec/21_pmp.md) and the external attribute check (R127). -/

namespace Sys2Proof.Machine

open Sys2Proof.Config (AccessType Region)

/-! ### The fields of `pmpNcfg` (R162) -/

def pmpR (b : Byte) : Bool := b.getLsbD 0
def pmpW (b : Byte) : Bool := b.getLsbD 1
def pmpX (b : Byte) : Bool := b.getLsbD 2
/-- The address-matching mode: 0 OFF, 1 TOR; 2 and 3 are not supported (R166). -/
def pmpA (b : Byte) : BitVec 2 := b.extractLsb' 3 2
def pmpL (b : Byte) : Bool := b.getLsbD 7

/-- The legal bytes: A is OFF or TOR, bits 6:5 zero, and not (R = 0 and W = 1) (R162, R165, R166). -/
def pmpLegalByte (b : Byte) : Bool :=
  (b &&& 0x70#8 == 0#8) && (pmpR b || !pmpW b)

/-- Make any byte legal: clear A[1] and bits 6:5, and W where R is clear. -/
def pmpForceLegal (b : Byte) : Byte :=
  let c := b &&& 0x8F#8
  if pmpR c || !pmpW c then c else c &&& 0x8D#8

/-- `pmp_legalize(old, w)`: `w` itself where it is legal, else some legal byte that nothing determines
(R165, R170; log entry 14). -/
def pmpLegalize (old w : Byte) : Byte :=
  if pmpLegalByte w then w else pmpForceLegal (Config.pmpChoice old w)

/-- The new `pmpNcfg` when `w` is written to it: a locked entry ignores the write (R170). -/
def pmpCfgAfterWrite (old w : Byte) : Byte :=
  if pmpL old then old else pmpLegalize old (w &&& 0x9F#8)

/-! ### The check (R175) -/

/-- One entry as the check sees it: its range in units of four bytes and its configuration (R167). -/
structure PmpEntry where
  lo : Word
  hi : Word
  cfg : Byte
deriving DecidableEq, Repr

/-- Entry `i`; "zero is used for the lower bound" of entry 0 (R167). -/
def State.pmpEntry (s : State) (i : Fin 8) : PmpEntry where
  lo := if i.val = 0 then 0#32 else s.pmpaddr[i.val - 1]
  hi := s.pmpaddr[i.val]
  cfg := s.pmpcfg[i.val]

/-- The eight functional entries in priority order (R164, R174). -/
def State.pmpEntries (s : State) : List PmpEntry :=
  [s.pmpEntry 0, s.pmpEntry 1, s.pmpEntry 2, s.pmpEntry 3, s.pmpEntry 4, s.pmpEntry 5, s.pmpEntry 6, s.pmpEntry 7]

/-- `match_byte(i, a)` (R175, R167), comparing unsigned. -/
def PmpEntry.matchesByte (e : PmpEntry) (a : Word) : Bool :=
  pmpA e.cfg != 0#2 && decide (e.lo.toNat ≤ a.toNat / 4) && decide (a.toNat / 4 < e.hi.toNat)

/-- How many of the `n` bytes from `a` the entry matches (R175). -/
def PmpEntry.hits (e : PmpEntry) (a : Word) (n : Nat) : Nat :=
  (List.range n).countP (fun k => e.matchesByte (a + BitVec.ofNat 32 k))

/-- The permission bits for a type of access (R162, R175). -/
def PmpEntry.permits (e : PmpEntry) : AccessType → Bool
  | .read => pmpR e.cfg
  | .write => pmpW e.cfg
  | .execute => pmpX e.cfg

/-- The entries in priority order decide: the first that matches any byte must match all; then an unlocked one allows, a
locked one allows what its bits permit; "If no PMP entry matches an M-mode access, the access succeeds" (R174, R175). -/
def pmpScan (a : Word) (n : Nat) (t : AccessType) : List PmpEntry → Bool
  | [] => true
  | e :: es =>
    if e.hits a n = 0 then pmpScan a n t es
    else if e.hits a n < n then false
    else !pmpL e.cfg || e.permits t

/-- `pmp_allows(addr, n, type)` (R175). -/
def State.pmpAllows (s : State) (a : Word) (n : Nat) (t : AccessType) : Bool :=
  pmpScan a n t s.pmpEntries

/-- The check made byte by byte, as an implementation that splits an access makes it (R131, D18). -/
def State.pmpAllowsSplit (s : State) (a : Word) (n : Nat) (t : AccessType) : Bool :=
  (List.range n).all (fun k => s.pmpAllows (a + BitVec.ofNat 32 k) 1 t)

/-! ### The external attribute check (R126, R127) -/

/-- The region holds all `n` bytes from address `a`. -/
def regionContains (r : Region) (a n : Nat) : Bool :=
  decide (r.base ≤ a) && decide (a + n ≤ r.base + r.size)

/-- The region supports the access (R126). -/
def regionSupports (r : Region) (t : AccessType) (n : Nat) : Bool :=
  match r.kind with
  | .main fetch => t != .execute || fetch
  | .io supported => supported.contains (t, n)

/-- `pma_ok(addr, n, type)`: the first region that holds the access decides; an access that no region holds fails (R126, R127). -/
def pmaOk (cfg : Config.Params) (a : Word) (n : Nat) (t : AccessType) : Bool :=
  match cfg.pma.find? (fun r => regionContains r a.toNat n) with
  | some r => regionSupports r t n
  | none => false

end Sys2Proof.Machine
end

