-- ==== Sys2Proof/Machine/Ops.lean ====
section
/-! DEFINITION. The named operations: general registers, retirement, taking an exception, an interrupt or an NMI and returning,
data access, the timer registers, instruction fetch. -/

namespace Sys2Proof.Machine

open Sys2Proof.Config (AccessType)

/-! ### General registers (R20) -/

/-- A register other than `x0` has a place in the file. -/
theorem reg_index_lt (r : Reg) (h : ¬ r = 0#5) : r.toNat - 1 < 31 := by
  have hlt := r.isLt
  have hne : r.toNat ≠ 0 := fun h' => h (BitVec.eq_of_toNat_eq (by simpa using h'))
  omega

/-- Read `x[r]`: `x0` reads 0. -/
def State.getX (s : State) (r : Reg) : Word :=
  if h : r = 0#5 then 0#32 else s.gpr[r.toNat - 1]'(reg_index_lt r h)

/-- Write `x[r]`: a write to `x0` is discarded. -/
def State.setX (s : State) (r : Reg) (v : Word) : State :=
  if h : r = 0#5 then s else { s with gpr := s.gpr.set (r.toNat - 1) v (reg_index_lt r h) }

/-! ### Completion -/

/-- The draws of this boundary: the head of the supplied trace, else the free ones (R321; log entry 9). -/
def State.drawNow (s : State) : Config.Draw :=
  match s.trace with
  | d :: _ => d
  | [] => Config.draw s.boundary

/-- Complete with the next instruction at `target`: the instruction retires and `minstret` counts it (R348). -/
def State.retireTo (s : State) (target : Word) : State :=
  { s with pc := target, minstret := s.minstret + 1 }

/-- Complete a 32-bit instruction that transfers no control: `pc <- pc + 4`, modulo 2^32 (R21, R348). DEDUCED, unsafe: at
0xFFFFFFFC, whose bytes do not wrap, it goes on at 0 as R21 says, although U26 lists it as refused (log entry 23). -/
def State.retire (s : State) : State := s.retireTo (s.pc + 4#32)

/-! ### Traps (R330, R335) -/

/-- The synchronous exceptions this hardware raises (R301, R304). -/
inductive Exception where
  | instructionAddressMisaligned
  | instructionAccessFault
  | illegalInstruction
  | breakpoint
  | loadAddressMisaligned
  | loadAccessFault
  | storeAddressMisaligned
  | storeAccessFault
  | environmentCallFromM
deriving DecidableEq, Repr

/-- The Exception Code (Table 12, R301). -/
def Exception.code : Exception → BitVec 31
  | .instructionAddressMisaligned => 0#31
  | .instructionAccessFault => 1#31
  | .illegalInstruction => 2#31
  | .breakpoint => 3#31
  | .loadAddressMisaligned => 4#31
  | .loadAccessFault => 5#31
  | .storeAddressMisaligned => 6#31
  | .storeAccessFault => 7#31
  | .environmentCallFromM => 11#31

/-- The maskable interrupts of this hardware (R305). -/
inductive Interrupt where
  | machineTimer
  | machineExternal
deriving DecidableEq, Repr

/-- The Exception Code of an interrupt (Table 12, R301). -/
def Interrupt.code : Interrupt → BitVec 31
  | .machineTimer => 7#31
  | .machineExternal => 11#31

/-- The trap target `{mtvec.BASE, 0b00}`, Direct mode always (R330, R332). -/
def State.trapTarget (s : State) : Word := s.mtvecBase ++ 0#2

/-- TAKING A TRAP: the one entry of exceptions and maskable interrupts (R330). `mepc` and `mcause` are written, the
interrupt-enable stack is pushed, the mode is M, the pc goes to the trap target; `mtval` is the constant 0. -/
def State.trapEntry (s : State) (isInterrupt : Bool) (code : BitVec 31) (epc : Word) : State :=
  { s with
    mepc := epc
    mcause := BitVec.ofBool isInterrupt ++ code
    mstatusMpie := s.mstatusMie
    mstatusMie := false
    priv := .machine
    pc := s.trapTarget
    wfiStalled := false }

/-- `raise E`: abandon the instruction at `pc` and take the exception; it does not retire (R12, R304, R330). -/
def State.raise (s : State) (e : Exception) : State := s.trapEntry false e.code s.pc

/-- Take a maskable interrupt at a boundary: `mepc` is the next instruction to execute (R330, R331). -/
def State.interruptEntry (s : State) (i : Interrupt) : State := s.trapEntry true i.code s.pc

/-- Take an NMI: `mepc`, `mcause` = 0x80000000, the NMI vector; MIE and MPIE are free (R335). How long an interrupt may be let
pass after it is drawn anew, also where the NMI ends a WFI stall (R323; log entry 19). DESIGN CHOICE, unsafe: the machine goes on
from here as from any state, so an MRET in the NMI handler is the ordinary return and a further NMI is taken, where U27 refuses
both (log entry 41). -/
def State.nmiEntry (s : State) (vector : Word) : State :=
  { s with
    mepc := s.pc
    mcause := 0x80000000#32
    pc := vector
    mstatusMie := s.drawNow.nmiMie
    mstatusMpie := s.drawNow.nmiMpie
    irqDelay := s.drawNow.irqDelay
    irqNow := false
    priv := .machine
    wfiStalled := false }

/-- RETURNING FROM A TRAP (R253, R336): MIE <- MPIE, MPIE <- 1, `pc <- mepc`; it retires, and the interrupt conditions are
evaluated immediately (R324). In an NMI handler too (log entry 41). -/
def State.trapReturn (s : State) : State :=
  { s with
    mstatusMie := s.mstatusMpie
    mstatusMpie := true
    pc := s.mepc
    minstret := s.minstret + 1
    irqNow := true }

/-- A WFI completes, at once or on leaving a stall: `pc + 4`, it retires, and the interrupt test that follows is not deferred
(R255; log entry 18). -/
def State.wfiComplete (s : State) : State :=
  { s with
    pc := s.pc + 4#32
    minstret := s.minstret + 1
    wfiStalled := false
    irqDelay := 0
    irqNow := true }

/-! ### IALIGN (R9, R123, R204) -/

/-- An instruction address is `IALIGN`-aligned: a multiple of 2 where the C extension is present, else of 4. -/
def ialigned (cfg : Config.Params) (a : Word) : Bool :=
  if cfg.extC then a.extractLsb' 0 1 == 0#1 else a.extractLsb' 0 2 == 0#2

/-- What `mepc` holds after a write of `v`: bit 0 cleared, and bit 1 where IALIGN = 32 (R45). -/
def mepcLegal (cfg : Config.Params) (v : Word) : Word :=
  if cfg.extC then v &&& 0xFFFFFFFE#32 else v &&& 0xFFFFFFFC#32

/-- Transfer control to a computed target: a target that is not `IALIGN`-aligned raises the instruction-address-misaligned
exception on the jump itself (R123, R281, R282); else the link register is written and the instruction retires. -/
def State.jumpTo (s : State) (target : Word) (link : Reg) (ret : Word) : State :=
  if ialigned s.cfg target then (s.setX link ret).retireTo target
  else s.raise .instructionAddressMisaligned

/-! ### Data access (R131, R340 to R342) -/

/-- Some of the `n` bytes from `a` belong to the timer registers (R341). -/
def touchesTimer (cfg : Config.Params) (a : Word) (n : Nat) : Bool :=
  (List.range n).any (fun k =>
    decide ((byteAddress a k - cfg.mtimeAddr).toNat < 8) || decide ((byteAddress a k - cfg.mtimecmpAddr).toNat < 8))

/-- The outcome of the checks of an explicit access. -/
inductive AccessCheck where
  | allowed
  | accessFault
  | misaligned
  /-- Misaligned, and it touches a timer register: the spec gives it no meaning (R341). -/
  | timerMisaligned
deriving DecidableEq, Repr

/-- The PMP half of the check. Where the bytes of a misaligned access lie in different PMP ranges the cause is open: the whole
access fails, an implementation that splits it may find every part allowed (R131, D18; log entry 22). -/
def State.dataPmpPasses (s : State) (a : Word) (n : Nat) (t : AccessType) : Bool :=
  s.pmpAllows a n t || (s.pmpAllowsSplit a n t && s.drawNow.dataSplit)

/-- The three tests in the source's order: PMP, PMA, alignment (R131). A misaligned access that would touch the timer registers
is refused (R341; log entry 21). -/
def State.checkAccess (s : State) (a : Word) (n : Nat) (t : AccessType) : AccessCheck :=
  if !s.dataPmpPasses a n t then .accessFault
  else if !pmaOk s.cfg a n t then .accessFault
  else if a.toNat % n ≠ 0 then (if touchesTimer s.cfg a n then .timerMisaligned else .misaligned)
  else .allowed

/-- The four 32-bit timer words (R340, R342). -/
inductive TimerWord where
  | mtimeLow
  | mtimeHigh
  | mtimecmpLow
  | mtimecmpHigh
deriving DecidableEq, Repr

/-- The timer word at an address, "low word at offset 0, high word at offset 4" (R340, R342). -/
def timerWordAt (cfg : Config.Params) (a : Word) : Option TimerWord :=
  if a = cfg.mtimeAddr then some .mtimeLow
  else if a = cfg.mtimeAddr + 4#32 then some .mtimeHigh
  else if a = cfg.mtimecmpAddr then some .mtimecmpLow
  else if a = cfg.mtimecmpAddr + 4#32 then some .mtimecmpHigh
  else none

/-- The low half of a 64-bit register. -/
def lowHalf (d : Dword) : Word := d.extractLsb' 0 32
/-- The high half of a 64-bit register. -/
def highHalf (d : Dword) : Word := d.extractLsb' 32 32
/-- Replace the low half: "writes change only bits 31-0" (R60, R342). -/
def withLowHalf (d : Dword) (v : Word) : Dword := highHalf d ++ v
/-- Replace the high half: "writes change only bits 63-32" (R60, R342). -/
def withHighHalf (d : Dword) (v : Word) : Dword := v ++ lowHalf d

/-- Perform an allowed aligned 4-byte read: a timer word, or main memory (R131, R341, R342). -/
def State.readWord (s : State) (a : Word) : Word :=
  match timerWordAt s.cfg a with
  | some .mtimeLow => lowHalf s.mtime
  | some .mtimeHigh => highHalf s.mtime
  | some .mtimecmpLow => lowHalf s.mtimecmp
  | some .mtimecmpHigh => highHalf s.mtimecmp
  | none => s.ramWord a

/-- Perform an allowed aligned 4-byte write: half of a timer register, or main memory (R131, R341, R342). -/
def State.writeWord (s : State) (a v : Word) : State :=
  match timerWordAt s.cfg a with
  | some .mtimeLow => { s with mtime := withLowHalf s.mtime v }
  | some .mtimeHigh => { s with mtime := withHighHalf s.mtime v }
  | some .mtimecmpLow => { s with mtimecmp := withLowHalf s.mtimecmp v }
  | some .mtimecmpHigh => { s with mtimecmp := withHighHalf s.mtimecmp v }
  | none => s.storeRamWord a v

/-! ### Instruction fetch (R130, R143) -/

/-- What fetch delivers. -/
inductive Fetched where
  | bits (r : RawInstr)
  | trap (e : Exception)
  | refuse (r : Refusal)
deriving DecidableEq, Repr

/-- The PMP and PMA checks of one parcel (R130). -/
def State.parcelAllowed (s : State) (a : Word) : Bool :=
  s.pmpAllows a 2 .execute && pmaOk s.cfg a 2 .execute

/-- Why a parcel that may be fetched still has no meaning: it lies in the timer registers (R341), or the hart has stored to it
since its last FENCE.I (R143). -/
def State.parcelRefusal (s : State) (a : Word) : Option Refusal :=
  if touchesTimer s.cfg a 2 then some .timerFetched
  else if s.stored.contains a.toNat || s.stored.contains (byteAddress a 1).toNat then some .storedByteFetched
  else none

/-- The bytes of a 32-bit instruction lie in one PMP range or in none, or the implementation's unit of checking lets the fetch
succeed all the same (R130, D18; log entry 22). -/
def State.fetchSpanPasses (s : State) (a : Word) : Bool :=
  s.pmpAllows a 4 .execute || s.drawNow.fetchSplit

/-- The second half of a fetch: the parcel at `pc + 2`; none where it lies past the top, that is at `pc` = 0xFFFFFFFE. At
0xFFFFFFFC the instruction is fetched (log entry 23). -/
def State.fetchSecond (s : State) (p0 : Parcel) : Fetched :=
  if 2 ^ 32 - 4 < s.pc.toNat then .refuse .fetchWrapsTop
  else if !s.parcelAllowed (byteAddress s.pc 2) || !s.fetchSpanPasses s.pc then .trap .instructionAccessFault
  else
    match s.parcelRefusal (byteAddress s.pc 2) with
    | some r => .refuse r
    | none =>
      if isCompressed p0 then .bits (.parcel p0)
      else .bits (.word (s.parcelAt (byteAddress s.pc 2) ++ p0))

/-- `Fetch(pc)` (R130): one parcel where it is a 16-bit instruction and IALIGN = 16, else two. -/
def State.fetch (s : State) : Fetched :=
  if !s.parcelAllowed s.pc then .trap .instructionAccessFault
  else
    match s.parcelRefusal s.pc with
    | some r => .refuse r
    | none =>
      if isCompressed (s.parcelAt s.pc) && s.cfg.extC then .bits (.parcel (s.parcelAt s.pc))
      else s.fetchSecond (s.parcelAt s.pc)

end Sys2Proof.Machine
end

