-- ==== Sys2Proof/Machine/Operands.lean ====
section
/-! DEFINITION. The operand forms: immediates (R203, R271), the effective address of a load or store (R277, R278), the
targets of jumps and branches (R281, R282). Register operands are `State.getX`. -/

namespace Sys2Proof.Machine

/-- An I- or S-type immediate, sign-extended (R271). -/
def immediate (imm12 : BitVec 12) : Word := imm12.signExtend 32

/-- A U-type immediate: the 20 bits above 12 zeros (R271). -/
def upperImmediate (imm20 : BitVec 20) : Word := imm20 ++ 0#12

/-- The 5-bit immediate of the CSR forms, zero-extended (R203). -/
def zeroImmediate (uimm : BitVec 5) : Word := uimm.zeroExtend 32

/-- `x[rs1] + sext(imm12)`, modulo 2^32 (R277, R278). -/
def State.effectiveAddress (s : State) (rs1 : Reg) (imm12 : BitVec 12) : Word :=
  s.getX rs1 + immediate imm12

/-- `pc + sext(offset)` of a JAL, modulo 2^32 (R281). -/
def State.jalTarget (s : State) (offset : BitVec 21) : Word := s.pc + offset.signExtend 32

/-- `pc + sext(offset)` of a branch, modulo 2^32 (R282). -/
def State.branchTarget (s : State) (offset : BitVec 13) : Word := s.pc + offset.signExtend 32

/-- The general registers an instruction reads or writes; register fields that a rule ignores (R279, R280) or that belong to an
instruction this hardware lacks (R257) name none. -/
def namedRegisters : Instr → List Reg
  | .csrrw rd _ rs1 | .csrrs rd _ rs1 | .csrrc rd _ rs1 => [rd, rs1]
  | .csrrwi rd _ _ | .csrrsi rd _ _ | .csrrci rd _ _ => [rd]
  | .lui rd _ | .auipc rd _ | .jal rd _ => [rd]
  | .addi rd rs1 _ | .lw rd rs1 _ => [rd, rs1]
  | .sw rs2 rs1 _ => [rs2, rs1]
  | .bne rs1 rs2 _ => [rs1, rs2]
  | .fence .. | .fenceI .. => []
  | .ecall | .ebreak | .cEbreak | .mret | .sret | .wfi => []
  | .mnret | .dret | .sfenceVma .. | .sinvalVma .. | .sfenceWInval | .sfenceInvalIr => []
  | .hfenceVvma .. | .hfenceGvma .. | .hinvalVvma .. | .hinvalGvma .. | .sctrclr | .hlvHsv .. => []

/-- Every register the instruction names is in the file: "If `MISA_EXT` bit E were 1 the file would have 16 registers"
(R20; log entry 29). -/
def registersExist (cfg : Config.Params) (i : Instr) : Bool :=
  !cfg.baseE || (namedRegisters i).all (fun r => decide (r.toNat < 16))

end Sys2Proof.Machine
end

