-- ==== Sys2Proof/Machine/BaseSubset.lean ====
section
/-! DEFINITION. The nine base instructions (R274 to R282). -/

namespace Sys2Proof.Machine

/-- LUI (R274). -/
def execLui (rd : Reg) (imm20 : BitVec 20) (s : State) : Result :=
  .next (s.setX rd (upperImmediate imm20)).retire

/-- AUIPC: relative to the address of the AUIPC itself (R275). -/
def execAuipc (rd : Reg) (imm20 : BitVec 20) (s : State) : Result :=
  .next (s.setX rd (s.pc + upperImmediate imm20)).retire

/-- ADDI, modulo 2^32 (R276). -/
def execAddi (rd rs1 : Reg) (imm12 : BitVec 12) (s : State) : Result :=
  .next (s.setX rd (s.getX rs1 + immediate imm12)).retire

/-- LW: the access fault comes before the misalignment (R277, R131). -/
def execLw (rd rs1 : Reg) (imm12 : BitVec 12) (s : State) : Result :=
  match s.checkAccess (s.effectiveAddress rs1 imm12) 4 .read with
  | .accessFault => .next (s.raise .loadAccessFault)
  | .misaligned => .next (s.raise .loadAddressMisaligned)
  | .timerMisaligned => .refused .timerMisaligned
  | .allowed => .next (s.setX rd (s.readWord (s.effectiveAddress rs1 imm12))).retire

/-- SW (R278, R131). -/
def execSw (rs2 rs1 : Reg) (imm12 : BitVec 12) (s : State) : Result :=
  match s.checkAccess (s.effectiveAddress rs1 imm12) 4 .write with
  | .accessFault => .next (s.raise .storeAccessFault)
  | .misaligned => .next (s.raise .storeAddressMisaligned)
  | .timerMisaligned => .refused .timerMisaligned
  | .allowed => .next (s.writeWord (s.effectiveAddress rs1 imm12) (s.getX rs2)).retire

/-- FENCE: a no-op that retires; its fields are ignored (R279, R141). -/
def execFence (_rd _rs1 : Reg) (_fm _pred _succ : BitVec 4) (s : State) : Result :=
  .next s.retire

/-- FENCE.I: every earlier store is visible to every later fetch; the stored-to marking is empty again (R280, R143). -/
def execFenceI (_rd _rs1 : Reg) (_imm12 : BitVec 12) (s : State) : Result :=
  .next { s with stored := [] }.retire

/-- JAL (R281). -/
def execJal (rd : Reg) (offset : BitVec 21) (s : State) : Result :=
  .next (s.jumpTo (s.jalTarget offset) rd (s.pc + 4#32))

/-- BNE: taken where the registers differ (R282). -/
def execBne (rs1 rs2 : Reg) (offset : BitVec 13) (s : State) : Result :=
  .next (if s.getX rs1 ≠ s.getX rs2 then s.jumpTo (s.branchTarget offset) 0#5 0#32 else s.retire)

end Sys2Proof.Machine
end

