-- ==== Sys2Proof/Machine/Privileged.lean ====
section
/-! DEFINITION. The privileged instructions that exist (R251 to R253, R255), SRET (R254), and the instructions of extensions
this hardware lacks, each of which raises the illegal-instruction exception (R257). -/

namespace Sys2Proof.Machine

/-- ECALL: "it generates an environment-call-from-M-mode exception, and performs no other operation" (R251). -/
def execEcall (s : State) : Result := .next (s.raise .environmentCallFromM)

/-- EBREAK: the breakpoint exception; no debugger overrides it (R252; log entry 35). -/
def execEbreak (s : State) : Result := .next (s.raise .breakpoint)

/-- C.EBREAK: as EBREAK where IALIGN = 16; where IALIGN = 32 the parcel is an illegal instruction (R252, R204). -/
def execCEbreak (s : State) : Result :=
  .next (s.raise (if s.cfg.extC then .breakpoint else .illegalInstruction))

/-- MRET (R253). -/
def execMret (s : State) : Result := .next s.trapReturn

/-- SRET: "is not provided as supervisor mode is not supported, and raises an illegal-instruction exception" (R254). -/
def execSret (s : State) : Result := .next (s.raise .illegalInstruction)

/-- WFI: stall, or complete at once; a free choice (R255; log entry 18). A stalled hart's pc stays at the WFI. -/
def execWfi (s : State) : Result :=
  .next (if s.drawNow.wfiStall then { s with wfiStalled := true } else s.wfiComplete)

/-- MNRET: Smrnmi is not supported (R257). -/
def execMnret (s : State) : Result := .next (s.raise .illegalInstruction)

/-- DRET: outside debug mode the word is not an instruction (R257). -/
def execDret (s : State) : Result := .next (s.raise .illegalInstruction)

/-- SFENCE.VMA: the supervisor ISA is not supported (R144, R257). -/
def execSfenceVma (_rs1 _rs2 : Reg) (s : State) : Result := .next (s.raise .illegalInstruction)

/-- SINVAL.VMA: Svinval is not supported (R257). -/
def execSinvalVma (_rs1 _rs2 : Reg) (s : State) : Result := .next (s.raise .illegalInstruction)

/-- SFENCE.W.INVAL: Svinval is not supported (R257). -/
def execSfenceWInval (s : State) : Result := .next (s.raise .illegalInstruction)

/-- SFENCE.INVAL.IR: Svinval is not supported (R257). -/
def execSfenceInvalIr (s : State) : Result := .next (s.raise .illegalInstruction)

/-- HFENCE.VVMA: the H extension is not supported (R257). -/
def execHfenceVvma (_rs1 _rs2 : Reg) (s : State) : Result := .next (s.raise .illegalInstruction)

/-- HFENCE.GVMA: the H extension is not supported (R257). -/
def execHfenceGvma (_rs1 _rs2 : Reg) (s : State) : Result := .next (s.raise .illegalInstruction)

/-- HINVAL.VVMA: the H extension is not supported (R257). -/
def execHinvalVvma (_rs1 _rs2 : Reg) (s : State) : Result := .next (s.raise .illegalInstruction)

/-- HINVAL.GVMA: the H extension is not supported (R257). -/
def execHinvalGvma (_rs1 _rs2 : Reg) (s : State) : Result := .next (s.raise .illegalInstruction)

/-- SCTRCLR: Smctr is not supported (R257). -/
def execSctrclr (s : State) : Result := .next (s.raise .illegalInstruction)

/-- HLV, HLVX, HSV and every other `funct3` = 100 word under SYSTEM (R208, R257). -/
def execHlvHsv (_funct7 : BitVec 7) (_rs2 _rs1 _rd : Reg) (s : State) : Result :=
  .next (s.raise .illegalInstruction)

end Sys2Proof.Machine
end

