-- ==== Sys2Proof/Machine/Csr.lean ====
section
/-! DEFINITION. The CSR file: which address is which register (R100 to R106), what a read returns (R231), what a write does
(R232), field by field as 10_state.md and 21_pmp.md say. -/

namespace Sys2Proof.Machine

/-- The CSRs that exist on this hardware, or exist where a parameter says so (R106). -/
inductive Csr where
  | mstatus
  | misa
  | mie
  | mtvec
  | mstatush
  | mscratch
  | mepc
  | mcause
  | mtval
  | mip
  /-- `mhpmevent3` to `mhpmevent31`. -/
  | mhpmevent (n : Nat)
  /-- `pmpcfg0` to `pmpcfg15`. -/
  | pmpcfg (n : Nat)
  /-- `pmpaddr0` to `pmpaddr63`. -/
  | pmpaddr (n : Nat)
  | mcycle
  | minstret
  /-- `mhpmcounter3` to `mhpmcounter31`. -/
  | mhpmcounter (n : Nat)
  | mcycleh
  | minstreth
  /-- `mhpmcounter3h` to `mhpmcounter31h`. -/
  | mhpmcounterh (n : Nat)
  | mvendorid
  | marchid
  | mimpid
  | mhartid
  | mconfigptr
  | cycle
  | time
  | instret
  /-- `hpmcounter3` to `hpmcounter31`. -/
  | hpmcounter (n : Nat)
  | cycleh
  | timeh
  | instreth
  /-- `hpmcounter3h` to `hpmcounter31h`. -/
  | hpmcounterh (n : Nat)
  /-- A CSR of the trigger unit: `tselect`, `tdata1` to `tdata3`, `mcontext`, and the rest of their range. -/
  | trigger
  | ssp
  | jvt
deriving DecidableEq, Repr

/-- The register at a CSR address, whether or not a parameter makes it exist; every other address is none (R102 to R106).
DEDUCED, safe: `HAS_TRIGGERS` governs all of 0x7A0 to 0x7AF, as R9 and D13 say; R106 lists 0x7A0 to 0x7A3 and 0x7A8 only
(log entry 35). -/
def csrAt (a : CsrAddr) : Option Csr :=
  let n := a.toNat
  if n = 0x300 then some .mstatus
  else if n = 0x301 then some .misa
  else if n = 0x304 then some .mie
  else if n = 0x305 then some .mtvec
  else if n = 0x310 then some .mstatush
  else if 0x323 ≤ n ∧ n ≤ 0x33F then some (.mhpmevent (n - 0x320))
  else if n = 0x340 then some .mscratch
  else if n = 0x341 then some .mepc
  else if n = 0x342 then some .mcause
  else if n = 0x343 then some .mtval
  else if n = 0x344 then some .mip
  else if 0x3A0 ≤ n ∧ n ≤ 0x3AF then some (.pmpcfg (n - 0x3A0))
  else if 0x3B0 ≤ n ∧ n ≤ 0x3EF then some (.pmpaddr (n - 0x3B0))
  else if n = 0xB00 then some .mcycle
  else if n = 0xB02 then some .minstret
  else if 0xB03 ≤ n ∧ n ≤ 0xB1F then some (.mhpmcounter (n - 0xB00))
  else if n = 0xB80 then some .mcycleh
  else if n = 0xB82 then some .minstreth
  else if 0xB83 ≤ n ∧ n ≤ 0xB9F then some (.mhpmcounterh (n - 0xB80))
  else if n = 0xF11 then some .mvendorid
  else if n = 0xF12 then some .marchid
  else if n = 0xF13 then some .mimpid
  else if n = 0xF14 then some .mhartid
  else if n = 0xF15 then some .mconfigptr
  else if n = 0xC00 then some .cycle
  else if n = 0xC01 then some .time
  else if n = 0xC02 then some .instret
  else if 0xC03 ≤ n ∧ n ≤ 0xC1F then some (.hpmcounter (n - 0xC00))
  else if n = 0xC80 then some .cycleh
  else if n = 0xC81 then some .timeh
  else if n = 0xC82 then some .instreth
  else if 0xC83 ≤ n ∧ n ≤ 0xC9F then some (.hpmcounterh (n - 0xC80))
  else if 0x7A0 ≤ n ∧ n ≤ 0x7AF then some .trigger
  else if n = 0x011 then some .ssp
  else if n = 0x017 then some .jvt
  else none

/-- What a CSR instruction finds at an address (R106, R233). -/
inductive CsrLookup where
  /-- No CSR there: the illegal-instruction exception. -/
  | absent
  /-- A CSR this spec describes. -/
  | present (c : Csr)
  /-- A CSR of a unit whose behaviour the spec does not give. -/
  | outside (r : Refusal)
deriving DecidableEq, Repr

/-- The existence check (R233): the OPEN addresses follow their parameters (R106). -/
def lookupCsr (cfg : Config.Params) (a : CsrAddr) : CsrLookup :=
  match csrAt a with
  | none => .absent
  | some .cycle => if cfg.hasZicntr then .present .cycle else .absent
  | some .time => if cfg.hasZicntr then .present .time else .absent
  | some .instret => if cfg.hasZicntr then .present .instret else .absent
  | some .cycleh => if cfg.hasZicntr then .present .cycleh else .absent
  | some .timeh => if cfg.hasZicntr then .present .timeh else .absent
  | some .instreth => if cfg.hasZicntr then .present .instreth else .absent
  | some (.hpmcounter n) => if cfg.hasZihpm then .present (.hpmcounter n) else .absent
  | some (.hpmcounterh n) => if cfg.hasZihpm then .present (.hpmcounterh n) else .absent
  | some .trigger => if cfg.hasTriggers then .outside .triggerCsr else .absent
  | some .ssp => if cfg.hasSsp then .outside .shadowStackCsr else .absent
  | some .jvt => if cfg.hasJvt then .outside .tableJumpCsr else .absent
  | some c => .present c

/-- Read-only by address: "The top two bits (csr[11:10]) indicate whether the register is read/write (00,01, or 10) or
read-only (11)" (R100, R234). -/
def csrReadOnly (a : CsrAddr) : Bool := a.extractLsb' 10 2 == 0b11#2

/-! ### Values -/

/-- `MCAUSE_LEGAL`: at least the values the hardware itself writes; of any other value nothing is known (R46; log entry 13). -/
def mcauseLegal (v : Word) : Bool :=
  decide (v.toNat ≤ 7) || v == 0xB#32 || v == 0x80000000#32 || v == 0x80000007#32 || v == 0x8000000B#32 ||
    Config.mcauseExtra v

/-- `pmpaddrN` after a write of `v`: bit 0 is read-only zero (R163). -/
def pmpaddrLegal (v : Word) : Word := v &&& 0xFFFFFFFE#32

/-- Four configuration bytes as a CSR, entry `4n + k` in bits `8k+7:8k` (R160). -/
def State.pmpcfgWord (s : State) (n : Nat) (h : n < 2) : Word :=
  s.pmpcfg[4 * n + 3] ++ s.pmpcfg[4 * n + 2] ++ s.pmpcfg[4 * n + 1] ++ s.pmpcfg[4 * n]

/-- Write four configuration bytes, each by itself: a locked entry does not stop its neighbours (R170). -/
def State.writePmpcfg (s : State) (n : Nat) (h : n < 2) (v : Word) : State :=
  { s with
    pmpcfg :=
      (((s.pmpcfg.set (4 * n) (pmpCfgAfterWrite s.pmpcfg[4 * n] (v.extractLsb' 0 8))).set
        (4 * n + 1) (pmpCfgAfterWrite s.pmpcfg[4 * n + 1] (v.extractLsb' 8 8))).set
        (4 * n + 2) (pmpCfgAfterWrite s.pmpcfg[4 * n + 2] (v.extractLsb' 16 8))).set
        (4 * n + 3) (pmpCfgAfterWrite s.pmpcfg[4 * n + 3] (v.extractLsb' 24 8)) }

/-- Writes to `pmpaddrN` are ignored: entry N is locked, or entry N + 1 is locked and TOR (R171). -/
def State.pmpaddrLocked (s : State) (n : Nat) (h : n < 8) : Bool :=
  pmpL s.pmpcfg[n] || (if h' : n + 1 < 8 then pmpL s.pmpcfg[n + 1] && pmpA s.pmpcfg[n + 1] == 1#2 else false)

/-- Write `pmpaddrN`, N in 0..7 (R171). -/
def State.writePmpaddr (s : State) (n : Nat) (h : n < 8) (v : Word) : State :=
  if s.pmpaddrLocked n h then s else { s with pmpaddr := s.pmpaddr.set n (pmpaddrLegal v) }

/-! ### Reading and writing (R231, R232) -/

/-- `csr_read`: the value a CSR instruction obtains (R231). A read changes nothing. -/
def State.csrRead (s : State) : Csr → Word
  | .mstatus => s.mstatusWord
  | .misa => misaWord s.cfg
  | .mie => s.mieWord
  | .mtvec => s.mtvecBase ++ 0#2
  | .mstatush => 0#32
  | .mscratch => s.mscratch
  | .mepc => s.mepc
  | .mcause => s.mcause
  | .mtval => 0#32
  | .mip => s.mipWord
  | .mhpmevent _ => 0#32
  | .pmpcfg n => if h : n < 2 then s.pmpcfgWord n h else 0#32
  | .pmpaddr n => if h : n < 8 then s.pmpaddr[n] else 0#32
  | .mcycle => lowHalf s.mcycle
  | .minstret => lowHalf s.minstret
  | .mhpmcounter _ => 0#32
  | .mcycleh => highHalf s.mcycle
  | .minstreth => highHalf s.minstret
  | .mhpmcounterh _ => 0#32
  | .mvendorid => 0x602#32
  | .marchid => 0x3#32
  | .mimpid => 0#32
  | .mhartid => 0#32
  | .mconfigptr => 0#32
  | .cycle => lowHalf s.mcycle
  | .time => lowHalf s.mtime
  | .instret => lowHalf s.minstret
  | .hpmcounter _ => 0#32
  | .cycleh => highHalf s.mcycle
  | .timeh => highHalf s.mtime
  | .instreth => highHalf s.minstret
  | .hpmcounterh _ => 0#32
  -- no CSR instruction reads these: `lookupCsr` never answers `present` for them (R106)
  | .trigger => 0#32
  | .ssp => 0#32
  | .jvt => 0#32

/-- `csr_write`: read/write fields take their bits of `v`, read-only fields ignore them, `mcause` keeps its value on an
unsupported one, locked PMP fields ignore the write, a counter half changes only its 32 bits (R232); what is written to
`mcycle` stands until the next instruction reads it (D21; log entry 30). -/
def State.csrWrite (s : State) (c : Csr) (v : Word) : State :=
  match c with
  | .mstatus => { s with mstatusMie := v.getLsbD 3, mstatusMpie := v.getLsbD 7 }
  | .mie => { s with mieMeie := v.getLsbD 11, mieMtie := v.getLsbD 7 }
  | .mtvec => { s with mtvecBase := v.extractLsb' 2 30 }
  | .mscratch => { s with mscratch := v }
  | .mepc => { s with mepc := mepcLegal s.cfg v }
  | .mcause => { s with mcause := if mcauseLegal v then v else s.mcause }
  | .pmpcfg n => if h : n < 2 then s.writePmpcfg n h v else s
  | .pmpaddr n => if h : n < 8 then s.writePmpaddr n h v else s
  | .mcycle => { s with mcycle := withLowHalf s.mcycle v, cycleHeld := true }
  | .minstret => { s with minstret := withLowHalf s.minstret v }
  | .mcycleh => { s with mcycle := withHighHalf s.mcycle v, cycleHeld := true }
  | .minstreth => { s with minstret := withHighHalf s.minstret v }
  -- every field read-only: the write is ignored (R27, R30, R38, R41, R47, R62, R63)
  | .misa | .mstatush | .mtval | .mip | .mhpmevent _ | .mhpmcounter _ | .mhpmcounterh _ => s
  -- read-only by address: no CSR instruction writes these (R234)
  | .mvendorid | .marchid | .mimpid | .mhartid | .mconfigptr => s
  | .cycle | .time | .instret | .hpmcounter _ | .cycleh | .timeh | .instreth | .hpmcounterh _ => s
  -- no CSR instruction reaches these (R106)
  | .trigger | .ssp | .jvt => s

/-- The CSRs on which the interrupt conditions expressly depend: an explicit write to one makes the next test immediate (R324). -/
def Csr.inInterruptCondition : Csr → Bool
  | .mstatus | .mie | .mip => true
  | _ => false

/-- `minstret` or `minstreth`: an instruction that writes one leaves exactly the written value (R243, R348). -/
def Csr.isInstretHalf : Csr → Bool
  | .minstret | .minstreth => true
  | _ => false

/-! ### The common execution sequence (R235) -/

/-- The three ways a CSR instruction forms the new value. -/
inductive CsrOp where
  | write
  | set
  | clear
deriving DecidableEq, Repr

/-- The new value from the old one and the operand (R235). -/
def CsrOp.combine (op : CsrOp) (old src : Word) : Word :=
  match op with
  | .write => src
  | .set => old ||| src
  | .clear => old &&& ~~~src

/-- The write half of a CSR instruction, with what it means for the next interrupt test (R232, R324). -/
def State.csrCommit (s : State) (c : Csr) (writes : Bool) (v : Word) : State :=
  if writes then
    let t := s.csrWrite c v
    { t with irqNow := c.inInterruptCondition || t.irqNow }
  else s

/-- The completion of a CSR instruction: `pc + 4`, and `minstret` counts it unless it wrote `minstret` or `minstreth`
(R235, R243). -/
def State.csrRetire (s : State) (c : Csr) (writes : Bool) : State :=
  if writes && c.isInstretHalf then { s with pc := s.pc + 4#32 } else s.retire

/-- `exec_csr(op, csr, rd, src_is_write, src_value)` (R235): the existence check, the read-only check, then read, write,
destination, completion. -/
def State.execCsr (s : State) (op : CsrOp) (rd : Reg) (a : CsrAddr) (writes : Bool) (src : Word) : Result :=
  match lookupCsr s.cfg a with
  | .absent => .next (s.raise .illegalInstruction)
  | .outside r => .refused r
  | .present c =>
    if writes && csrReadOnly a then .next (s.raise .illegalInstruction)
    else
      .next (((s.csrCommit c writes (op.combine (s.csrRead c) src)).setX rd (s.csrRead c)).csrRetire c writes)

end Sys2Proof.Machine
end

