-- ==== Sys2Proof/Machine/Zicsr.lean ====
section
/-! DEFINITION. The six CSR access instructions (R236 to R241). Whether one attempts a write is decided by its encoding alone
(R234). -/

namespace Sys2Proof.Machine

/-- CSRRW: atomic read/write; it always writes (R236). -/
def execCsrrw (rd : Reg) (csr : CsrAddr) (rs1 : Reg) (s : State) : Result :=
  s.execCsr .write rd csr true (s.getX rs1)

/-- CSRRS: atomic read and set bits; it writes unless `rs1` is `x0` (R237). -/
def execCsrrs (rd : Reg) (csr : CsrAddr) (rs1 : Reg) (s : State) : Result :=
  s.execCsr .set rd csr (rs1 != 0#5) (s.getX rs1)

/-- CSRRC: atomic read and clear bits; it writes unless `rs1` is `x0` (R238). -/
def execCsrrc (rd : Reg) (csr : CsrAddr) (rs1 : Reg) (s : State) : Result :=
  s.execCsr .clear rd csr (rs1 != 0#5) (s.getX rs1)

/-- CSRRWI: as CSRRW with the zero-extended immediate (R239). -/
def execCsrrwi (rd : Reg) (csr : CsrAddr) (uimm : BitVec 5) (s : State) : Result :=
  s.execCsr .write rd csr true (zeroImmediate uimm)

/-- CSRRSI: as CSRRS with the zero-extended immediate; it writes unless the immediate is 0 (R240). -/
def execCsrrsi (rd : Reg) (csr : CsrAddr) (uimm : BitVec 5) (s : State) : Result :=
  s.execCsr .set rd csr (uimm != 0#5) (zeroImmediate uimm)

/-- CSRRCI: as CSRRC with the zero-extended immediate; it writes unless the immediate is 0 (R241). -/
def execCsrrci (rd : Reg) (csr : CsrAddr) (uimm : BitVec 5) (s : State) : Result :=
  s.execCsr .clear rd csr (uimm != 0#5) (zeroImmediate uimm)

end Sys2Proof.Machine
end

