-- ==== Sys2Proof/Machine/Dispatch.lean ====
section
/-! DEFINITION. One arm per instruction, each one call of its meaning. -/

namespace Sys2Proof.Machine

def exec (i : Instr) (s : State) : Host.Outcome State Fault Refusal :=
  match i with
  | .csrrw rd csr rs1 => Sys2Proof.Machine.execCsrrw rd csr rs1 s
  | .csrrs rd csr rs1 => Sys2Proof.Machine.execCsrrs rd csr rs1 s
  | .csrrc rd csr rs1 => Sys2Proof.Machine.execCsrrc rd csr rs1 s
  | .csrrwi rd csr uimm => Sys2Proof.Machine.execCsrrwi rd csr uimm s
  | .csrrsi rd csr uimm => Sys2Proof.Machine.execCsrrsi rd csr uimm s
  | .csrrci rd csr uimm => Sys2Proof.Machine.execCsrrci rd csr uimm s
  | .ecall => Sys2Proof.Machine.execEcall s
  | .ebreak => Sys2Proof.Machine.execEbreak s
  | .mret => Sys2Proof.Machine.execMret s
  | .sret => Sys2Proof.Machine.execSret s
  | .wfi => Sys2Proof.Machine.execWfi s
  | .cEbreak => Sys2Proof.Machine.execCEbreak s
  | .mnret => Sys2Proof.Machine.execMnret s
  | .dret => Sys2Proof.Machine.execDret s
  | .sfenceVma rs1 rs2 => Sys2Proof.Machine.execSfenceVma rs1 rs2 s
  | .sinvalVma rs1 rs2 => Sys2Proof.Machine.execSinvalVma rs1 rs2 s
  | .sfenceWInval => Sys2Proof.Machine.execSfenceWInval s
  | .sfenceInvalIr => Sys2Proof.Machine.execSfenceInvalIr s
  | .hfenceVvma rs1 rs2 => Sys2Proof.Machine.execHfenceVvma rs1 rs2 s
  | .hfenceGvma rs1 rs2 => Sys2Proof.Machine.execHfenceGvma rs1 rs2 s
  | .hinvalVvma rs1 rs2 => Sys2Proof.Machine.execHinvalVvma rs1 rs2 s
  | .hinvalGvma rs1 rs2 => Sys2Proof.Machine.execHinvalGvma rs1 rs2 s
  | .sctrclr => Sys2Proof.Machine.execSctrclr s
  | .hlvHsv funct7 rs2 rs1 rd => Sys2Proof.Machine.execHlvHsv funct7 rs2 rs1 rd s
  | .lui rd imm20 => Sys2Proof.Machine.execLui rd imm20 s
  | .auipc rd imm20 => Sys2Proof.Machine.execAuipc rd imm20 s
  | .addi rd rs1 imm12 => Sys2Proof.Machine.execAddi rd rs1 imm12 s
  | .lw rd rs1 imm12 => Sys2Proof.Machine.execLw rd rs1 imm12 s
  | .sw rs2 rs1 imm12 => Sys2Proof.Machine.execSw rs2 rs1 imm12 s
  | .fence rd rs1 fm pred succ => Sys2Proof.Machine.execFence rd rs1 fm pred succ s
  | .fenceI rd rs1 imm12 => Sys2Proof.Machine.execFenceI rd rs1 imm12 s
  | .jal rd offset => Sys2Proof.Machine.execJal rd offset s
  | .bne rs1 rs2 offset => Sys2Proof.Machine.execBne rs1 rs2 offset s

end Sys2Proof.Machine
end

