-- ==== Sys2Proof/Machine/Environment.lean ====
section
/-! DEFINITION. What the platform does between two instruction boundaries: the timer, the counter `mcycle`, the inputs, the two
finite delays (R321, R323, R324, R341, R343, R347). -/

namespace Sys2Proof.Machine

/-- `mtip_line` at the next boundary: it follows the comparison when its delay has run out, else keeps its value; "while they
agree it does not change" (R343). -/
def nextMtipLine (line cmp : Bool) (delay : Nat) : Bool :=
  if line = cmp then line else if delay = 0 then cmp else line

/-- The remaining delay of `mtip_line`: drawn anew while line and comparison agree, counted down while they differ (R343;
log entry 17). -/
def nextMtipDelay (line' cmp : Bool) (delay drawn : Nat) : Nat :=
  if line' = cmp then drawn else delay - 1

/-- How much `mtime` advances at a boundary: the drawn amount, and one more where its wait has run out, so that "the clock does
not stop" (R341, fairness (1) of R392; log entry 40). -/
def mtimeAdvance (wait drawn : Nat) : Nat := if wait = 0 then drawn + 1 else drawn

/-- How long `mtime` may still stand still: drawn anew where the wait has run out, else one boundary less (R392). -/
def nextMtimeWait (wait drawn : Nat) : Nat := if wait = 0 then drawn else wait - 1

/-- The inputs and the free-running registers one boundary later; `mcycle` keeps a value just written to it (R347, D21). -/
def State.advancePlatform (s : State) : State :=
  let d := s.drawNow
  let mtime' := s.mtime + BitVec.ofNat 64 (mtimeAdvance s.mtimeWait d.mtimeTicks)
  let cmp := timerCondition mtime' s.mtimecmp
  let line' := nextMtipLine s.mtipLine cmp s.mtipDelay
  { s with
    mtime := mtime'
    mtimeWait := nextMtimeWait s.mtimeWait d.mtimeWait
    mcycle := if s.cycleHeld then s.mcycle else s.mcycle + BitVec.ofNat 64 d.cycles
    cycleHeld := false
    extIrq := d.extIrq
    nmiPending := s.cfg.nmi.isSome && d.nmi
    mtipLine := line'
    mtipDelay := nextMtipDelay line' cmp s.mtipDelay d.mtipDelay
    boundary := s.boundary + 1
    trace := s.trace.tail }

/-- How long a takeable interrupt may still be let pass at the next boundary: not at all right after an MRET or an explicit
write to `mstatus`, `mie` or `mip` (R324); a drawn, finite number of boundaries where a pending bit has just made it
takeable (R323; log entry 16); else one less than before. -/
def nextIrqDelay (s t : State) : Nat :=
  if s.irqNow then 0
  else if !s.takeable && t.takeable then s.drawNow.irqDelay
  else s.irqDelay - 1

/-- From one instruction boundary to the next: what every step adds around what the hart does. -/
def State.tick (s : State) : State :=
  { s.advancePlatform with irqDelay := nextIrqDelay s s.advancePlatform, irqNow := false }

end Sys2Proof.Machine
end

