-- ==== Sys2Proof/Machine/Boundary.lean ====
section
/-! DEFINITION. One instruction boundary (R270, R313): an NMI, else a maskable interrupt, else the instruction at `pc`; and the
boundaries a stalled WFI spends (R255). -/

namespace Sys2Proof.Machine

/-- The NMI vector where an NMI is to be taken: there is an NMI input and it is raised, whatever the enables hold (R335). -/
def State.nmiDue (s : State) : Option Word :=
  if s.nmiPending then s.cfg.nmi else none

/-- The maskable interrupt to take at this boundary: takeable and not let pass any longer; external before timer
(R312, R320, R323). -/
def State.interruptDue (s : State) : Option Interrupt :=
  if s.takeable && decide (s.irqDelay = 0) then
    if s.mieMeie && s.extIrq then some .machineExternal else some .machineTimer
  else none

/-- The event that precedes the instruction at `pc`, taken: NMI first, then a maskable interrupt (R313). -/
def State.takeEvent (s : State) : Option State :=
  match s.nmiDue with
  | some vector => some (s.nmiEntry vector)
  | none => s.interruptDue.map s.interruptEntry

/-- Run what decoding answers: an instruction executes; bits that are no instruction of this hardware raise illegal-instruction
(R208, R204, R39, R210); a word of the unprivileged set that the spec does not give has no meaning (R210). Where IALIGN = 32
every 16-bit parcel is illegal (R204). An instruction that names a register past the end of the file is a reserved encoding, so
illegal too (R20, R272; log entry 29). -/
def State.runDecoded (s : State) : Decoded → Result
  | .instr i => if registersExist s.cfg i then exec i s else .next (s.raise .illegalInstruction)
  | .reject .reservedSystem => .next (s.raise .illegalInstruction)
  | .reject .floatOrVector => .next (s.raise .illegalInstruction)
  | .reject .longEncoding => .next (s.raise .illegalInstruction)
  | .reject .definedIllegal => .next (s.raise .illegalInstruction)
  | .reject .outsideSpecParcel =>
    if s.cfg.extC then .refused .parcelOutsideSpec else .next (s.raise .illegalInstruction)
  | .reject .outsideSpecWord => .refused .wordOutsideSpec
  -- fetch delivers whole instructions, so this is never reached
  | .reject .truncated => .refused .wordOutsideSpec

/-- The instruction at `pc`: fetch, decode, execute (R270, R311). -/
def State.runInstruction (s : State) : Result :=
  match s.fetch with
  | .trap e => .next (s.raise e)
  | .refuse r => .refused r
  | .bits raw => s.runDecoded (decodeRaw raw)

/-- A stalled WFI resumes: it must where an enabled interrupt is pending, an NMI ends the stall, and it may for any reason
(R255). -/
def State.wakes (s : State) : Bool :=
  s.pendingEnabled || s.nmiDue.isSome || s.drawNow.wfiWake

/-- A boundary of a stalled hart: it stays stalled, or the WFI completes and the event test follows at once (R255). -/
def State.stalledBoundary (s : State) : State :=
  if s.wakes then s.wfiComplete.takeEvent.getD s.wfiComplete else s

/-- Apply the platform's step to the state an outcome reaches. -/
def Result.tick : Result → Result
  | .next t => .next t.tick
  | .fault f => .fault f
  | .refused r => .refused r

/-- One step from an instruction boundary to the next (R270). -/
def State.runBoundary (s : State) : Result :=
  if s.wfiStalled then .next s.stalledBoundary.tick
  else
    match s.takeEvent with
    | some t => .next t.tick
    | none => s.runInstruction.tick

/-- Store an instruction's bits at `pc` from outside the machine, and let nothing come before it: no stall, no NMI request, a
maskable interrupt let pass at this boundary (log entry 12). -/
def State.placeInstruction (s : State) (bytes : List Byte) : State :=
  { s.placeBytes s.pc bytes with
    wfiStalled := false
    nmiPending := false
    irqDelay := if s.takeable then s.irqDelay + 1 else s.irqDelay }

end Sys2Proof.Machine
end

