-- ==== Sys2Proof/Machine/Step.lean ====
section
/-! DEFINITION. The step of the machine, and the placing of one instruction where the next step fetches it. -/

namespace Sys2Proof.Machine

/-- One step: from one instruction boundary to the next (R270). -/
def step (s : State) : Host.Outcome State Fault Refusal := s.runBoundary

/-- `s` with the instruction whose bits are the low `nbits` of `w` (spec/opcode_table.json's numbering) where `step` fetches
next. -/
def State.withFetchWord (s : State) (nbits w : Nat) : State :=
  s.placeInstruction (tableBytes nbits w)

end Sys2Proof.Machine
end

