-- ==== Sys2Proof/Safety.lean ====
section
/-! DEFINITION. The terms the claims are stated in: what a reset state is, the invariant of the machine, the frames of the
instructions, the effect of a trap, the rows of the opcode table. -/

namespace Sys2Proof.Safety

open Sys2Proof.Machine

/-! ### Parameters, reset, invariant -/

/-- The constraints on the parameters: the timer addresses are 8-byte aligned and disjoint (D11), and an NMI vector is an
instruction address, so IALIGN-aligned (R21, R123). -/
structure ParamsOk (cfg : Config.Params) : Prop where
  mtimeAligned : cfg.mtimeAddr.toNat % 8 = 0
  mtimecmpAligned : cfg.mtimecmpAddr.toNat % 8 = 0
  timersDisjoint : cfg.mtimeAddr ≠ cfg.mtimecmpAddr
  nmiVectorAligned : ∀ v, cfg.nmi = some v → ialigned cfg v = true

/-- What the spec says of the state right after reset (R370, R80), and nothing more: every field not named here is arbitrary. -/
structure IsResetState (s : State) : Prop where
  pc : s.pc = 0x80000000#32
  priv : s.priv = .machine
  mie : s.mstatusMie = false
  mcause : s.mcause = 0#32
  pmpOff : ∀ i : Fin 8, pmpA s.pmpcfg[i] = 0#2
  pmpUnlocked : ∀ i : Fin 8, pmpL s.pmpcfg[i] = false
  pmpLegal : ∀ i : Fin 8, pmpLegalByte s.pmpcfg[i] = true
  pmpaddrGrain : ∀ i : Fin 8, s.pmpaddr[i].getLsbD 0 = false
  mepcLegal : mepcLegal s.cfg s.mepc = s.mepc
  notStalled : s.wfiStalled = false
  nothingStored : s.stored = []
  memCanonical : Memory.wf s.mem
  params : ParamsOk s.cfg

/-- The invariant of the machine: memory and the stored-to marking are in canonical form, `pc` and `mepc` are IALIGN-aligned
(R21, R45), the mode is M (R22), every PMP field is legal (R162, R163, R165, R166), `mcause` holds a supported value
(R46). -/
structure Invariant (s : State) : Prop where
  memCanonical : Memory.wf s.mem
  storedRising : s.stored.Pairwise (· < ·)
  pcAligned : ialigned s.cfg s.pc = true
  mepcAligned : ialigned s.cfg s.mepc = true
  privMachine : s.priv = .machine
  pmpLegal : ∀ i : Fin 8, pmpLegalByte s.pmpcfg[i] = true
  pmpaddrGrain : ∀ i : Fin 8, s.pmpaddr[i].getLsbD 0 = false
  mcauseSupported : mcauseLegal s.mcause = true
  params : ParamsOk s.cfg

/-! ### Frames -/

/-- Every general register is as before. -/
def SameRegs (s t : State) : Prop := ∀ r : Reg, t.getX r = s.getX r

/-- Every general register but `rd` is as before, and `rd` holds `v`, or still reads 0 where it is `x0` (R20). -/
def RegResult (s t : State) (rd : Reg) (v : Word) : Prop :=
  t.getX rd = (if rd = 0#5 then 0#32 else v) ∧ ∀ r : Reg, r ≠ rd → t.getX r = s.getX r

/-- Every byte of main memory reads as before, and no byte is newly marked as stored to. -/
structure SameMemory (s t : State) : Prop where
  bytes : ∀ a : Word, t.byteAt a = s.byteAt a
  stored : t.stored = s.stored

/-- The machine-level CSRs no trap writes, `mcycle` among them, are as before. -/
structure SameCsrs (s t : State) : Prop where
  mtvec : t.mtvecBase = s.mtvecBase
  meie : t.mieMeie = s.mieMeie
  mtie : t.mieMtie = s.mieMtie
  mscratch : t.mscratch = s.mscratch
  mcycle : t.mcycle = s.mcycle
  pmpcfg : t.pmpcfg = s.pmpcfg
  pmpaddr : t.pmpaddr = s.pmpaddr

/-- The registers a trap writes, the mode and the stall are as before. -/
structure SameTrapState (s t : State) : Prop where
  mie : t.mstatusMie = s.mstatusMie
  mpie : t.mstatusMpie = s.mstatusMpie
  mepc : t.mepc = s.mepc
  mcause : t.mcause = s.mcause
  priv : t.priv = s.priv
  stalled : t.wfiStalled = s.wfiStalled

/-- The inputs, `mip`, the parameters and the draws still to come are as before. -/
structure SameInputs (s t : State) : Prop where
  extIrq : t.extIrq = s.extIrq
  mtipLine : t.mtipLine = s.mtipLine
  nmiPending : t.nmiPending = s.nmiPending
  cfg : t.cfg = s.cfg
  mtipDelay : t.mtipDelay = s.mtipDelay
  mtimeWait : t.mtimeWait = s.mtimeWait
  boundary : t.boundary = s.boundary
  trace : t.trace = s.trace

/-- The timer registers are as before. -/
structure SameTimer (s t : State) : Prop where
  mtime : t.mtime = s.mtime
  mtimecmp : t.mtimecmp = s.mtimecmp

/-- How the next interrupt test is made, and whether `mcycle` has just been written, is as before. -/
structure SameDeferral (s t : State) : Prop where
  irqDelay : t.irqDelay = s.irqDelay
  irqNow : t.irqNow = s.irqNow
  cycleHeld : t.cycleHeld = s.cycleHeld

/-- The instruction retired with the next instruction at `target` (R348). -/
structure RetiredTo (s t : State) (target : Word) : Prop where
  pc : t.pc = target
  minstret : t.minstret = s.minstret + 1

/-- Nothing but general registers, `pc` and `minstret` differs. -/
structure OnlyRegisters (s t : State) : Prop where
  memory : SameMemory s t
  csrs : SameCsrs s t
  trapState : SameTrapState s t
  inputs : SameInputs s t
  timer : SameTimer s t
  deferral : SameDeferral s t

/-- The whole effect of an instruction that only computes `rd`: the result, the frame, the retirement. -/
structure Computes (s t : State) (rd : Reg) (v : Word) : Prop where
  result : RegResult s t rd v
  frame : OnlyRegisters s t
  retired : RetiredTo s t (s.pc + 4#32)

/-- The whole effect of trap entry with `mepc` = `epc` (R330), and what it leaves alone; `mtval` reads 0. That MPIE takes MIE and
MIE is cleared is the spec's decision D5 (log entry 15). -/
structure TrapTaken (s t : State) (cause epc : Word) : Prop where
  mepc : t.mepc = epc
  mcause : t.mcause = cause
  mtval : t.csrRead .mtval = 0#32
  mpie : t.mstatusMpie = s.mstatusMie
  mie : t.mstatusMie = false
  priv : t.priv = .machine
  pc : t.pc = s.mtvecBase ++ 0#2
  stalled : t.wfiStalled = false
  minstret : t.minstret = s.minstret
  regs : SameRegs s t
  memory : SameMemory s t
  csrs : SameCsrs s t
  inputs : SameInputs s t
  timer : SameTimer s t
  deferral : SameDeferral s t

/-- The instruction `i` takes the synchronous exception with this cause, and does nothing else. -/
def Raises (i : Instr) (s : State) (cause : Word) : Prop :=
  ∃ t, exec i s = .next t ∧ TrapTaken s t cause s.pc

/-! ### CSR instructions -/

/-- The register behind a CSR: the unprivileged counters show the machine-level ones (R66). -/
def storageOf : Csr → Csr
  | .cycle => .mcycle
  | .cycleh => .mcycleh
  | .instret => .minstret
  | .instreth => .minstreth
  | c => c

/-- `minstret`, `minstreth` or their shadows: what retirement itself changes (R348). -/
def showsInstret (c : Csr) : Bool := (storageOf c).isInstretHalf

/-- Byte `k` of a word. -/
def wordByte (v : Word) (k : Nat) : Byte := v.extractLsb' (8 * k) 8

/-- Entry `i` cannot have its address register written: it is locked, or the next entry is locked and TOR (R171). -/
def AddressLocked (s : State) (i : Fin 8) : Prop :=
  pmpL s.pmpcfg[i] = true ∨
    ∃ h : i.val + 1 < 8, pmpL s.pmpcfg[i.val + 1] = true ∧ pmpA s.pmpcfg[i.val + 1] = 1#2

/-- What CSR `c` reads right after an explicit write of `v` in state `s`, bit by bit as the rule of each register says:
`mstatus` (R36), `mie` (R42), `mtvec` (R40), `mscratch` (R44), `mepc` (R45), `mcause` (R46), the PMP registers
(R160, R161, R164, R170, R171), the counters (R60, R61); every other register is read-only in all its bits and keeps its
value (R27, R30, R38, R41, R47, R62, R63). -/
def readsAfterWrite (s : State) (v : Word) : Csr → Word
  | .mstatus => 0x00001800#32 ||| (v &&& 0x00000088#32)
  | .mie => v &&& 0x00000880#32
  | .mtvec => v &&& 0xFFFFFFFC#32
  | .mscratch => v
  | .mepc => if s.cfg.extC then v &&& 0xFFFFFFFE#32 else v &&& 0xFFFFFFFC#32
  | .mcause => if mcauseLegal v then v else s.csrRead .mcause
  | .pmpcfg n =>
    if n < 2 then
      pmpCfgAfterWrite (wordByte (s.csrRead (.pmpcfg n)) 3) (wordByte v 3) ++
      pmpCfgAfterWrite (wordByte (s.csrRead (.pmpcfg n)) 2) (wordByte v 2) ++
      pmpCfgAfterWrite (wordByte (s.csrRead (.pmpcfg n)) 1) (wordByte v 1) ++
      pmpCfgAfterWrite (wordByte (s.csrRead (.pmpcfg n)) 0) (wordByte v 0)
    else 0#32
  | .pmpaddr n =>
    if h : n < 8 then
      if s.pmpaddrLocked n h then s.csrRead (.pmpaddr n) else v &&& 0xFFFFFFFE#32
    else 0#32
  | .mcycle | .minstret | .mcycleh | .minstreth => v
  | c => s.csrRead c

/-- The whole effect of a CSR instruction that writes `v` to `c` and reads it into `rd` (R235), `minstret` by R243; a half of
`mcycle` still reads `v` after the tick (D21). -/
structure CsrWritten (s t : State) (rd : Reg) (c : Csr) (v : Word) : Prop where
  result : RegResult s t rd (s.csrRead c)
  written : t.csrRead c = readsAfterWrite s v c
  cycleHeld : c = .mcycle ∨ c = .mcycleh → t.tick.csrRead c = v
  others : ∀ c', storageOf c' ≠ c → showsInstret c' = false → t.csrRead c' = s.csrRead c'
  instret :
    t.minstret =
      if c = .minstret then highHalf s.minstret ++ v
      else if c = .minstreth then v ++ lowHalf s.minstret
      else s.minstret + 1
  pc : t.pc = s.pc + 4#32
  priv : t.priv = s.priv
  stalled : t.wfiStalled = s.wfiStalled
  memory : SameMemory s t
  inputs : SameInputs s t
  timer : SameTimer s t
  irqDelay : t.irqDelay = s.irqDelay

/-- Every form of CSR instruction that does not write, on address `a`, puts `v` into `rd` and changes nothing else. -/
def ReadsAs (s : State) (a : CsrAddr) (v : Word) : Prop :=
  ∀ rd : Reg,
    (∃ t, exec (.csrrs rd a 0#5) s = .next t ∧ Computes s t rd v) ∧
    (∃ t, exec (.csrrc rd a 0#5) s = .next t ∧ Computes s t rd v) ∧
    (∃ t, exec (.csrrsi rd a 0#5) s = .next t ∧ Computes s t rd v) ∧
    (∃ t, exec (.csrrci rd a 0#5) s = .next t ∧ Computes s t rd v)

/-- Every form of CSR instruction that writes, on address `a`, raises the illegal-instruction exception. -/
def WritesTrap (s : State) (a : CsrAddr) : Prop :=
  ∀ rd : Reg,
    (∀ x : Reg, Raises (.csrrw rd a x) s 2#32 ∧
      (x ≠ 0#5 → Raises (.csrrs rd a x) s 2#32 ∧ Raises (.csrrc rd a x) s 2#32)) ∧
    (∀ u : BitVec 5, Raises (.csrrwi rd a u) s 2#32 ∧
      (u ≠ 0#5 → Raises (.csrrsi rd a u) s 2#32 ∧ Raises (.csrrci rd a u) s 2#32))

/-- Every form of CSR instruction, on address `a`, puts `v` into `rd` and changes nothing else: a write is ignored. -/
def AlwaysReadsAs (s : State) (a : CsrAddr) (v : Word) : Prop :=
  ∀ rd : Reg,
    (∀ x : Reg,
      (∃ t, exec (.csrrw rd a x) s = .next t ∧ Computes s t rd v) ∧
      (∃ t, exec (.csrrs rd a x) s = .next t ∧ Computes s t rd v) ∧
      (∃ t, exec (.csrrc rd a x) s = .next t ∧ Computes s t rd v)) ∧
    (∀ u : BitVec 5,
      (∃ t, exec (.csrrwi rd a u) s = .next t ∧ Computes s t rd v) ∧
      (∃ t, exec (.csrrsi rd a u) s = .next t ∧ Computes s t rd v) ∧
      (∃ t, exec (.csrrci rd a u) s = .next t ∧ Computes s t rd v))

/-- One of the six CSR instructions. -/
def isCsrInstr : Instr → Bool
  | .csrrw .. | .csrrs .. | .csrrc .. | .csrrwi .. | .csrrsi .. | .csrrci .. => true
  | _ => false

/-! ### Steps -/

/-- No event comes before the instruction at `pc`: the hart is not stalled, no NMI and no interrupt is taken. -/
structure NoEvent (s : State) : Prop where
  notStalled : s.wfiStalled = false
  noNmi : s.nmiDue = none
  noInterrupt : s.interruptDue = none

/-- The step at `s` runs the instruction `i`: no event comes first, fetch delivers its bits, and the registers it names exist. -/
structure RunsAt (s : State) (i : Instr) : Prop where
  noEvent : NoEvent s
  fetched : ∃ raw, s.fetch = .bits raw ∧ decodeRaw raw = .instr i
  registers : registersExist s.cfg i = true

/-- The byte at `b` belongs to `mtime` or `mtimecmp` (R340, R342). -/
def TimerByte (cfg : Config.Params) (b : Word) : Prop :=
  (b - cfg.mtimeAddr).toNat < 8 ∨ (b - cfg.mtimecmpAddr).toNat < 8

/-- Some byte of the word at `a` belongs to a timer register (R341). -/
def TouchesTimer (cfg : Config.Params) (a : Word) : Prop :=
  TimerByte cfg a ∨ TimerByte cfg (a + 1#32) ∨ TimerByte cfg (a + 2#32) ∨ TimerByte cfg (a + 3#32)

/-- The instruction at `pc` takes two parcels: its first is no 16-bit instruction, or IALIGN = 32 (R130, R204). -/
def TakesTwoParcels (s : State) : Prop :=
  (s.byteAt s.pc).extractLsb' 0 2 = 0b11#2 ∨ s.cfg.extC = false

/-- The parcel at `a` can be fetched: the PMP and the PMA checks pass (R130), it is no timer register (R341), and the hart has
not stored to it since its last FENCE.I (R143). -/
structure ParcelFetchable (s : State) (a : Word) : Prop where
  allowed : s.parcelAllowed a = true
  notTimer : touchesTimer s.cfg a 2 = false
  notStored : a.toNat ∉ s.stored ∧ (a + 1#32).toNat ∉ s.stored

/-- The four bytes at `pc`, lowest address first. -/
def bytesAtPc (s : State) : List Byte :=
  [s.byteAt s.pc, s.byteAt (s.pc + 1#32), s.byteAt (s.pc + 2#32), s.byteAt (s.pc + 3#32)]

/-- The parcel at `pc + 2` can be fetched as the second half of an instruction at `pc` (R130, D17, D18). -/
structure SecondParcelFetchable (s : State) : Prop where
  noWrap : s.pc.toNat ≤ 2 ^ 32 - 4
  parcel : ParcelFetchable s (s.pc + 2#32)
  span : s.fetchSpanPasses s.pc = true

/-- The byte address `a` is decided by entry `i`: it is the first entry that matches it (R174). -/
def FirstMatch (s : State) (a : Word) (i : Fin 8) : Prop :=
  (s.pmpEntry i).matchesByte a = true ∧ ∀ j : Fin 8, j < i → (s.pmpEntry j).matchesByte a = false

/-- Entry `i` is locked (R169). -/
def Locked (s : State) (i : Fin 8) : Prop := pmpL s.pmpcfg[i] = true

/-! ### The opcode table -/

/-- The `match` and `mask` of the instruction's row in spec/opcode_table.json; 32-bit rows (the row of C.EBREAK is 16 bits
wide: its parcel is 0x9002 under mask 0xFFFF). -/
def tableRow : Instr → Word × Word
  | .csrrw .. => (0x00001073#32, 0x0000707F#32)
  | .csrrs .. => (0x00002073#32, 0x0000707F#32)
  | .csrrc .. => (0x00003073#32, 0x0000707F#32)
  | .csrrwi .. => (0x00005073#32, 0x0000707F#32)
  | .csrrsi .. => (0x00006073#32, 0x0000707F#32)
  | .csrrci .. => (0x00007073#32, 0x0000707F#32)
  | .ecall => (0x00000073#32, 0xFFFFFFFF#32)
  | .ebreak => (0x00100073#32, 0xFFFFFFFF#32)
  | .mret => (0x30200073#32, 0xFFFFFFFF#32)
  | .sret => (0x10200073#32, 0xFFFFFFFF#32)
  | .wfi => (0x10500073#32, 0xFFFFFFFF#32)
  | .cEbreak => (0x00009002#32, 0x0000FFFF#32)
  | .mnret => (0x70200073#32, 0xFFFFFFFF#32)
  | .dret => (0x7B200073#32, 0xFFFFFFFF#32)
  | .sfenceVma .. => (0x12000073#32, 0xFE007FFF#32)
  | .sinvalVma .. => (0x16000073#32, 0xFE007FFF#32)
  | .sfenceWInval => (0x18000073#32, 0xFFFFFFFF#32)
  | .sfenceInvalIr => (0x18100073#32, 0xFFFFFFFF#32)
  | .hfenceVvma .. => (0x22000073#32, 0xFE007FFF#32)
  | .hfenceGvma .. => (0x62000073#32, 0xFE007FFF#32)
  | .hinvalVvma .. => (0x26000073#32, 0xFE007FFF#32)
  | .hinvalGvma .. => (0x66000073#32, 0xFE007FFF#32)
  | .sctrclr => (0x10400073#32, 0xFFFFFFFF#32)
  | .hlvHsv .. => (0x00004073#32, 0x0000707F#32)
  | .lui .. => (0x00000037#32, 0x0000007F#32)
  | .auipc .. => (0x00000017#32, 0x0000007F#32)
  | .addi .. => (0x00000013#32, 0x0000707F#32)
  | .lw .. => (0x00002003#32, 0x0000707F#32)
  | .sw .. => (0x00002023#32, 0x0000707F#32)
  | .fence .. => (0x0000000F#32, 0x0000707F#32)
  | .fenceI .. => (0x0000100F#32, 0x0000707F#32)
  | .jal .. => (0x0000006F#32, 0x0000007F#32)
  | .bne .. => (0x00001063#32, 0x0000707F#32)

end Sys2Proof.Safety
end

