-- ==== Sys2Proof/Certificates/Slice0/Obligations.lean ====
section
/-! DEFINITION. The statements for the provers, each a `Prop` over every state unless its hypotheses say otherwise. -/

section Statements

open Sys2Proof
open Sys2Proof.Machine
open Sys2Proof.Safety
open Sys2Proof.Config (AccessType)

/-! ### Encoding -/

/-- Decoding the encoding of a well-formed instruction gives it back, with every operand, and leaves the bytes after it. -/
def Obligations.DecodeEncodeRoundTrip : Prop :=
  ∀ (i : Instr) (rest : List Byte), i.wellFormed = true →
    decode (parcelsBytes (encode i) ++ rest) = .instr i rest

/-- Bytes that decode are the encoding of a well-formed instruction: no bit of an instruction is dropped, and no instruction has
two encodings. -/
def Obligations.EncodeDecodeRoundTrip : Prop :=
  ∀ (bytes : List Byte) (i : Instr) (rest : List Byte), decode bytes = .instr i rest →
    i.wellFormed = true ∧ bytes = parcelsBytes (encode i) ++ rest

/-- Words the spec writes out, each with the instruction it names beside them (R236 to R241, R251 to R255, R274 to R282). -/
def Obligations.SpecWordsDecode : Prop :=
  decodeWord 0x340312F3#32 = .instr (.csrrw 5#5 0x340#12 6#5) ∧
  decodeWord 0x34202573#32 = .instr (.csrrs 10#5 0x342#12 0#5) ∧
  decodeWord 0x3042B073#32 = .instr (.csrrc 0#5 0x304#12 5#5) ∧
  decodeWord 0x342FD2F3#32 = .instr (.csrrwi 5#5 0x342#12 31#5) ∧
  decodeWord 0x30046073#32 = .instr (.csrrsi 0#5 0x300#12 8#5) ∧
  decodeWord 0x300473F3#32 = .instr (.csrrci 7#5 0x300#12 8#5) ∧
  decodeWord 0x30200073#32 = .instr .mret ∧
  decodeWord 0x10500073#32 = .instr .wfi ∧
  decodeParcel 0x9002#16 = .instr .cEbreak ∧
  decodeWord 0x800012B7#32 = .instr (.lui 5#5 0x80001#20) ∧
  decodeWord 0x00432383#32 = .instr (.lw 7#5 6#5 4#12) ∧
  decodeWord 0x00532023#32 = .instr (.sw 5#5 6#5 0#12) ∧
  decodeWord 0x010000EF#32 = .instr (.jal 1#5 16#21) ∧
  decodeWord 0xFE029EE3#32 = .instr (.bne 5#5 0#5 0x1FFC#13)

/-- A word decodes to an instruction of a row of the opcode table exactly if it matches that row under its mask; rows overlap
nowhere (R211). C.EBREAK's row is not a 32-bit row. -/
def Obligations.DecodeFollowsTheOpcodeTable : Prop :=
  (∀ (w : Word) (i : Instr), decodeWord w = .instr i → i ≠ .cEbreak ∧ w &&& (tableRow i).2 = (tableRow i).1) ∧
  (∀ (w : Word) (j : Instr), j ≠ .cEbreak → w &&& (tableRow j).2 = (tableRow j).1 →
    ∃ i, decodeWord w = .instr i ∧ tableRow i = tableRow j)

/-- Words that are illegal instructions: a SYSTEM word that is no row of the table (R208; decision D14), 0xFFFFFFFF and the parcel
0x0000 (R210, R204), floating-point and vector words and parcels (R39, R272; which opcodes those are is the model's choice,
log entry 28), and every 16-bit parcel where IALIGN = 32 (R204). Each raises the exception and does nothing else. -/
def Obligations.IllegalEncodingsTrap : Prop :=
  (∀ (w : Word) (s : State), opcodeOf w = 0b1110011#7 →
    (∀ j : Instr, j ≠ .cEbreak → w &&& (tableRow j).2 ≠ (tableRow j).1) →
    ∃ t, s.runDecoded (decodeRaw (.word w)) = .next t ∧ TrapTaken s t 2#32 s.pc) ∧
  (∀ s : State, ∃ t, s.runDecoded (decodeRaw (.word 0xFFFFFFFF#32)) = .next t ∧ TrapTaken s t 2#32 s.pc) ∧
  (∀ s : State, ∃ t, s.runDecoded (decodeRaw (.parcel 0x0000#16)) = .next t ∧ TrapTaken s t 2#32 s.pc) ∧
  (∀ (w : Word) (s : State),
    opcodeOf w ∈ [0b0000111#7, 0b0100111#7, 0b1000011#7, 0b1000111#7, 0b1001011#7, 0b1001111#7, 0b1010011#7, 0b1010111#7,
      0b1110111#7] →
    ∃ t, s.runDecoded (decodeRaw (.word w)) = .next t ∧ TrapTaken s t 2#32 s.pc) ∧
  (∀ (p : Parcel) (s : State),
    (p.extractLsb' 13 3, p.extractLsb' 0 2) ∈ [(0b001#3, 0b00#2), (0b011#3, 0b00#2), (0b101#3, 0b00#2), (0b111#3, 0b00#2),
      (0b001#3, 0b10#2), (0b011#3, 0b10#2), (0b111#3, 0b10#2)] →
    ∃ t, s.runDecoded (decodeRaw (.parcel p)) = .next t ∧ TrapTaken s t 2#32 s.pc) ∧
  (∀ (p : Parcel) (s : State), s.cfg.extC = false →
    ∃ t, s.runDecoded (decodeRaw (.parcel p)) = .next t ∧ TrapTaken s t 2#32 s.pc)

/-! ### The step -/

/-- Where the bytes at `pc` decode to an instruction that can be fetched and no event comes first, the step is that instruction
executed, then the platform's tick. C.EBREAK takes one parcel where IALIGN = 16; everything else takes two (R270, R130). An
instruction that names a register past the end of the file is illegal (R20, R272; log entry 29). That a 32-bit instruction at
0xFFFFFFFC runs is the model's reading against U26 (log entry 23). -/
def Obligations.StepRunsTheDecodedInstruction : Prop :=
  ∀ (s : State) (i : Instr) (rest : List Byte), NoEvent s → decode (bytesAtPc s) = .instr i rest →
    ParcelFetchable s s.pc → ((i = .cEbreak ∧ s.cfg.extC = true) ∨ SecondParcelFetchable s) →
    ((s.cfg.baseE = false ∨ ∀ r ∈ namedRegisters i, r.toNat < 16) → step s = Result.tick (exec i s)) ∧
    (s.cfg.baseE = true → (∃ r ∈ namedRegisters i, 16 ≤ r.toNat) →
      ∃ t, step s = .next t.tick ∧ TrapTaken s t 2#32 s.pc)

/-- What the step adds around an instruction: the timer and the cycle counter advance by the draws, the inputs take their new
values, and nothing of the hart but `mcycle` changes (R321, R341, R347). That `mtime` advances by one more where its wait has
run out is the model's form of fairness (log entry 40); that `mcycle` stands where it was just written is D21 (entry 30). -/
def Obligations.TickMovesOnlyThePlatform : Prop :=
  ∀ s : State,
    s.tick.mtime = s.mtime + BitVec.ofNat 64 (if s.mtimeWait = 0 then s.drawNow.mtimeTicks + 1 else s.drawNow.mtimeTicks) ∧
    s.tick.mcycle = (if s.cycleHeld then s.mcycle else s.mcycle + BitVec.ofNat 64 s.drawNow.cycles) ∧
    s.tick.extIrq = s.drawNow.extIrq ∧
    (s.cfg.nmi = none → s.tick.nmiPending = false) ∧
    (∀ v, s.cfg.nmi = some v → s.tick.nmiPending = s.drawNow.nmi) ∧
    s.tick.mtimecmp = s.mtimecmp ∧ s.tick.pc = s.pc ∧ s.tick.minstret = s.minstret ∧
    SameRegs s s.tick ∧ SameMemory s s.tick ∧ SameTrapState s s.tick ∧
    s.tick.mtvecBase = s.mtvecBase ∧ s.tick.mieMeie = s.mieMeie ∧ s.tick.mieMtie = s.mieMtie ∧
    s.tick.mscratch = s.mscratch ∧ s.tick.pmpcfg = s.pmpcfg ∧ s.tick.pmpaddr = s.pmpaddr ∧ s.tick.cfg = s.cfg

/-- A fetch that the PMP or the PMA denies raises the instruction access fault at `pc`, and nothing else happens, whether the first
parcel is denied or the second one of a 32-bit instruction (R130, R177, R304). That this holds of a 32-bit instruction at
0xFFFFFFFC too is the model's reading against U26 (log entry 23). -/
def Obligations.DeniedFetchTraps : Prop :=
  (∀ s : State, NoEvent s → (s.pmpAllows s.pc 2 .execute = false ∨ pmaOk s.cfg s.pc 2 .execute = false) →
    ∃ t, step s = .next t.tick ∧ TrapTaken s t 1#32 s.pc) ∧
  (∀ s : State, NoEvent s → ParcelFetchable s s.pc → TakesTwoParcels s → s.pc.toNat ≤ 2 ^ 32 - 4 →
    (s.pmpAllows (s.pc + 2#32) 2 .execute = false ∨ pmaOk s.cfg (s.pc + 2#32) 2 .execute = false) →
    ∃ t, step s = .next t.tick ∧ TrapTaken s t 1#32 s.pc)

/-- A fetch of a byte the hart has stored to since its last FENCE.I stops, whatever the byte is, in the first parcel and in the
second one of a 32-bit instruction (R143, D20). That a 32-bit instruction at 0xFFFFFFFC stops for this reason, and not for its
place, is the model's reading against U26 (log entry 23). -/
def Obligations.StoredByteFetchIsRefused : Prop :=
  (∀ s : State, NoEvent s → s.parcelAllowed s.pc = true → touchesTimer s.cfg s.pc 2 = false →
    (s.pc.toNat ∈ s.stored ∨ (s.pc + 1#32).toNat ∈ s.stored) → step s = .refused .storedByteFetched) ∧
  (∀ s : State, NoEvent s → ParcelFetchable s s.pc → TakesTwoParcels s → s.pc.toNat ≤ 2 ^ 32 - 4 →
    s.parcelAllowed (s.pc + 2#32) = true → s.fetchSpanPasses s.pc = true → touchesTimer s.cfg (s.pc + 2#32) 2 = false →
    ((s.pc + 2#32).toNat ∈ s.stored ∨ (s.pc + 3#32).toNat ∈ s.stored) → step s = .refused .storedByteFetched)

/-! ### Events -/

/-- A takeable interrupt that is not let pass is taken before the instruction at `pc`, the external one first (R312, R313,
R320, R330). -/
def Obligations.InterruptIsTaken : Prop :=
  ∀ s : State, s.wfiStalled = false → s.nmiDue = none → s.mstatusMie = true → s.irqDelay = 0 →
    (s.mieMeie = true ∧ s.extIrq = true →
      ∃ t, step s = .next t.tick ∧ TrapTaken s t 0x8000000B#32 s.pc) ∧
    ((s.mieMeie = false ∨ s.extIrq = false) ∧ s.mieMtie = true ∧ s.mtipLine = true →
      ∃ t, step s = .next t.tick ∧ TrapTaken s t 0x80000007#32 s.pc)

/-- Without MIE, or without an interrupt both pending and enabled, no maskable interrupt comes before the instruction at `pc`
(R320). -/
def Obligations.NoInterruptUnlessTakeable : Prop :=
  ∀ s : State, s.wfiStalled = false → s.nmiDue = none →
    (s.mstatusMie = false ∨
      ((s.mieMeie = false ∨ s.extIrq = false) ∧ (s.mieMtie = false ∨ s.mtipLine = false))) →
    step s = Result.tick s.runInstruction

/-- A raised NMI is taken at the next boundary whatever the enables hold, before an interrupt and before the instruction at `pc`;
a stalled WFI completes first, so that `mepc` is the instruction after it and the WFI retires. MIE and MPIE are not stated
(R335, R313, R255, R331). That an NMI is taken in an NMI handler too is the model's choice against U27 (log entry 41). -/
def Obligations.NmiIsTaken : Prop :=
  ∀ (s : State) (vector : Word), s.nmiPending = true → s.cfg.nmi = some vector →
    ∃ t, step s = .next t.tick ∧ t.mcause = 0x80000000#32 ∧ t.pc = vector ∧ t.priv = .machine ∧ t.wfiStalled = false ∧
      (s.wfiStalled = false → t.mepc = s.pc ∧ t.minstret = s.minstret) ∧
      (s.wfiStalled = true → t.mepc = s.pc + 4#32 ∧ t.minstret = s.minstret + 1) ∧
      SameRegs s t ∧ SameMemory s t ∧ SameCsrs s t ∧ SameInputs s t ∧ SameTimer s t

/-- After an MRET, and after a CSR instruction that wrote `mstatus`, `mie` or `mip`, a takeable interrupt is taken at once
(R324, R242). -/
def Obligations.ImmediateInterruptTest : Prop :=
  ∀ (s t : State) (i : Instr), exec i s = .next t →
    (i = .mret ∨
      ∃ c, (c = Csr.mstatus ∨ c = Csr.mie ∨ c = Csr.mip) ∧
        ((∃ rd a rs1, i = .csrrw rd a rs1 ∧ lookupCsr s.cfg a = .present c) ∨
         (∃ rd a rs1, rs1 ≠ 0#5 ∧ (i = .csrrs rd a rs1 ∨ i = .csrrc rd a rs1) ∧ lookupCsr s.cfg a = .present c) ∨
         (∃ rd a uimm, i = .csrrwi rd a uimm ∧ lookupCsr s.cfg a = .present c) ∨
         (∃ rd a uimm, uimm ≠ 0#5 ∧ (i = .csrrsi rd a uimm ∨ i = .csrrci rd a uimm) ∧
           lookupCsr s.cfg a = .present c))) →
    t.tick.takeable = true → t.tick.interruptDue ≠ none

/-- While an interrupt stays takeable, the number of boundaries it may still be let pass falls at each instruction, so it is
taken after finitely many (R323; the countdown is the model's form of that bound, log entry 16). -/
def Obligations.InterruptDeferralIsFinite : Prop :=
  ∀ (s u : State), s.runInstruction = .next u → u.takeable = true → 0 < s.irqDelay → u.tick.irqDelay < s.irqDelay

/-- `mip.MTIP` follows the comparison `mtime >= mtimecmp`, as unsigned integers: where they agree it keeps its value, where they differ the
remaining delay falls, and at zero the line takes the comparison's value (R343; the countdown is log entry 17). -/
def Obligations.TimerLineFollowsTheComparison : Prop :=
  ∀ s : State,
    (s.mtipLine = decide (s.mtimecmp.toNat ≤ s.tick.mtime.toNat) → s.tick.mtipLine = s.mtipLine) ∧
    (s.mtipLine ≠ decide (s.mtimecmp.toNat ≤ s.tick.mtime.toNat) → s.mtipDelay = 0 → s.tick.mtipLine = !s.mtipLine) ∧
    (s.mtipLine ≠ decide (s.mtimecmp.toNat ≤ s.tick.mtime.toNat) → 0 < s.mtipDelay →
      s.tick.mtipLine = s.mtipLine ∧ s.tick.mtipDelay = s.mtipDelay - 1)

/-- The clock does not stop, also not during a WFI stall: `mtime` may stand still for a finite number of boundaries, which every
step makes smaller until it has run out, and then it advances (R341, fairness (1) of R392; the countdown is the model's form
of the fairness, log entry 40). -/
def Obligations.ClockDoesNotStop : Prop :=
  (∀ s t : State, step s = .next t → 0 < s.mtimeWait → t.mtimeWait = s.mtimeWait - 1) ∧
  (∀ s t : State, step s = .next t → s.mtimeWait = 0 →
    t.mtime = s.mtime + BitVec.ofNat 64 (s.drawNow.mtimeTicks + 1) ∨ ∃ rs2 rs1 imm, RunsAt s (.sw rs2 rs1 imm)) ∧
  (∀ s t : State, step s = .next t → s.wfiStalled = true →
    t.mtime = s.mtime + BitVec.ofNat 64 (if s.mtimeWait = 0 then s.drawNow.mtimeTicks + 1 else s.drawNow.mtimeTicks))

/-- A stalled hart with an enabled interrupt pending completes the WFI: with MIE the trap is taken with `mepc` = WFI + 4, without
MIE it goes on at WFI + 4; the WFI retires. With nothing to wake it, it goes on where the draw says so, and else only the
platform moves (R255, R331, R353). -/
def Obligations.StalledHartResumes : Prop :=
  ∀ s : State, s.wfiStalled = true → s.nmiDue = none →
    (s.pendingEnabled = true → s.mstatusMie = true →
      ∃ t, step s = .next t.tick ∧ t.mepc = s.pc + 4#32 ∧
        (t.mcause = if s.mieMeie && s.extIrq then 0x8000000B#32 else 0x80000007#32) ∧ t.pc = s.mtvecBase ++ 0#2 ∧
        t.mstatusMpie = true ∧ t.mstatusMie = false ∧ t.priv = .machine ∧ t.wfiStalled = false ∧
        t.minstret = s.minstret + 1 ∧ SameRegs s t ∧ SameMemory s t ∧ SameCsrs s t ∧ SameInputs s t ∧ SameTimer s t) ∧
    (((s.pendingEnabled = true ∧ s.mstatusMie = false) ∨ (s.pendingEnabled = false ∧ s.drawNow.wfiWake = true)) →
      ∃ t, step s = .next t.tick ∧ RetiredTo s t (s.pc + 4#32) ∧ t.wfiStalled = false ∧ t.mepc = s.mepc ∧
        t.mcause = s.mcause ∧ t.mstatusMie = s.mstatusMie ∧ t.mstatusMpie = s.mstatusMpie ∧ t.priv = s.priv ∧
        SameRegs s t ∧ SameMemory s t ∧ SameCsrs s t ∧ SameInputs s t ∧ SameTimer s t) ∧
    (s.pendingEnabled = false → s.drawNow.wfiWake = false → step s = .next s.tick)

/-! ### CSR instructions -/

/-- CSRRW and CSRRWI complete on every CSR that exists and is not read-only by address: `rd` gets the old value, the CSR the
operand, and nothing else changes but `pc` and `minstret` (R235, R236, R239). What `mtvec`, `pmpaddr`, `mepc` and the fields
without storage read afterwards is D8, D16, D30, D24, D7 (log entry 33) and D3 (entry 34); `mcause` holds every value of
D9's minimum set (entry 13), illegal PMP bytes are free (entry 14), the counters follow D21 (entries 30, 31). -/
def Obligations.CsrWriteForms : Prop :=
  (∀ (s : State) (rd : Reg) (a : CsrAddr) (c : Csr), lookupCsr s.cfg a = .present c → csrReadOnly a = false →
    (∀ rs1 : Reg, ∃ t, exec (.csrrw rd a rs1) s = .next t ∧ CsrWritten s t rd c (s.getX rs1)) ∧
    (∀ uimm : BitVec 5, ∃ t, exec (.csrrwi rd a uimm) s = .next t ∧ CsrWritten s t rd c (uimm.zeroExtend 32))) ∧
  (∀ (s : State) (rd rs1 : Reg),
    ((s.getX rs1).toNat ≤ 7 ∨ s.getX rs1 ∈ [0xB#32, 0x80000000#32, 0x80000007#32, 0x8000000B#32]) →
    ∃ t, exec (.csrrw rd 0x342#12 rs1) s = .next t ∧ t.mcause = s.getX rs1)

/-- The set and clear forms that write: the new value is the old one with the operand's bits set or cleared (R235, R237, R238,
R240, R241). Which forms write is D28 (log entry 36); what reads back is as in `Obligations.CsrWriteForms` (log entries 13,
14, 30, 31, 33, 34). -/
def Obligations.CsrSetClearForms : Prop :=
  ∀ (s : State) (rd : Reg) (a : CsrAddr) (c : Csr), lookupCsr s.cfg a = .present c → csrReadOnly a = false →
    (∀ rs1 : Reg, rs1 ≠ 0#5 →
      (∃ t, exec (.csrrs rd a rs1) s = .next t ∧ CsrWritten s t rd c (s.csrRead c ||| s.getX rs1)) ∧
      (∃ t, exec (.csrrc rd a rs1) s = .next t ∧ CsrWritten s t rd c (s.csrRead c &&& ~~~(s.getX rs1)))) ∧
    (∀ uimm : BitVec 5, uimm ≠ 0#5 →
      (∃ t, exec (.csrrsi rd a uimm) s = .next t ∧ CsrWritten s t rd c (s.csrRead c ||| uimm.zeroExtend 32)) ∧
      (∃ t, exec (.csrrci rd a uimm) s = .next t ∧ CsrWritten s t rd c (s.csrRead c &&& ~~~(uimm.zeroExtend 32))))

/-- The set and clear forms that do not write read the CSR into `rd` and change nothing else, also where the CSR is read-only by
address (R234, R237, R238, R240, R241); the value of each register that is no constant is written out (R30, R36, R38, R40 to
R42, R44 to R46, R60, R61, R66, R160, R163). -/
def Obligations.CsrReadForms : Prop :=
  (∀ (s : State) (a : CsrAddr) (c : Csr), lookupCsr s.cfg a = .present c → ReadsAs s a (s.csrRead c)) ∧
  ∀ s : State,
    ReadsAs s 0x300#12
      (0x00001800#32 ||| (if s.mstatusMpie then 0x80#32 else 0#32) ||| (if s.mstatusMie then 0x8#32 else 0#32)) ∧
    ReadsAs s 0x301#12
      (0x40000000#32 ||| (if s.cfg.extB then 0x2#32 else 0#32) ||| (if s.cfg.extC then 0x4#32 else 0#32) |||
        (if s.cfg.baseE then 0x10#32 else 0x100#32) ||| (if s.cfg.extM then 0x1000#32 else 0#32) |||
        (if s.cfg.extX then 0x800000#32 else 0#32)) ∧
    ReadsAs s 0x304#12 ((if s.mieMeie then 0x800#32 else 0#32) ||| (if s.mieMtie then 0x80#32 else 0#32)) ∧
    ReadsAs s 0x305#12 (s.mtvecBase ++ 0b00#2) ∧
    ReadsAs s 0x310#12 0#32 ∧
    ReadsAs s 0x340#12 s.mscratch ∧ ReadsAs s 0x341#12 s.mepc ∧ ReadsAs s 0x342#12 s.mcause ∧
    ReadsAs s 0x344#12 ((if s.extIrq then 0x800#32 else 0#32) ||| (if s.mtipLine then 0x80#32 else 0#32)) ∧
    ReadsAs s 0x3A0#12 (s.pmpcfg[3] ++ s.pmpcfg[2] ++ s.pmpcfg[1] ++ s.pmpcfg[0]) ∧
    ReadsAs s 0x3A1#12 (s.pmpcfg[7] ++ s.pmpcfg[6] ++ s.pmpcfg[5] ++ s.pmpcfg[4]) ∧
    (∀ n : Fin 8, ReadsAs s (0x3B0#12 + BitVec.ofNat 12 n.val) s.pmpaddr[n]) ∧
    ReadsAs s 0xB00#12 (s.mcycle.extractLsb' 0 32) ∧ ReadsAs s 0xB80#12 (s.mcycle.extractLsb' 32 32) ∧
    ReadsAs s 0xB02#12 (s.minstret.extractLsb' 0 32) ∧ ReadsAs s 0xB82#12 (s.minstret.extractLsb' 32 32) ∧
    (s.cfg.hasZicntr = true →
      ReadsAs s 0xC00#12 (s.mcycle.extractLsb' 0 32) ∧ ReadsAs s 0xC80#12 (s.mcycle.extractLsb' 32 32) ∧
      ReadsAs s 0xC01#12 (s.mtime.extractLsb' 0 32) ∧ ReadsAs s 0xC81#12 (s.mtime.extractLsb' 32 32) ∧
      ReadsAs s 0xC02#12 (s.minstret.extractLsb' 0 32) ∧ ReadsAs s 0xC82#12 (s.minstret.extractLsb' 32 32)) ∧
    (s.cfg.hasZihpm = true → ∀ a : CsrAddr,
      (0xC03 ≤ a.toNat ∧ a.toNat ≤ 0xC1F) ∨ (0xC83 ≤ a.toNat ∧ a.toNat ≤ 0xC9F) → ReadsAs s a 0#32)

/-- An access to a CSR that does not exist, and a write to one that is read-only by address, raise the illegal-instruction
exception and do nothing else (R233, R234, D1). -/
def Obligations.IllegalCsrAccessTraps : Prop :=
  (∀ (s : State) (rd : Reg) (a : CsrAddr), lookupCsr s.cfg a = .absent →
    (∀ x : Reg, Raises (.csrrw rd a x) s 2#32 ∧ Raises (.csrrs rd a x) s 2#32 ∧ Raises (.csrrc rd a x) s 2#32) ∧
    (∀ u : BitVec 5, Raises (.csrrwi rd a u) s 2#32 ∧ Raises (.csrrsi rd a u) s 2#32 ∧ Raises (.csrrci rd a u) s 2#32)) ∧
  (∀ (s : State) (a : CsrAddr) (c : Csr), lookupCsr s.cfg a = .present c → 0xC00 ≤ a.toNat → WritesTrap s a)

/-- No floating-point, vector, entropy-source, supervisor-level, hypervisor-level, delegation, environment-configuration,
debug-mode, custom or unallocated CSR exists, whatever the parameters (R39, R102 to R106, R48, D1, D13); and the optional
groups exist exactly where their parameter says so, `HAS_TRIGGERS` for all of 0x7A0 to 0x7AF (R106, R9; log entry 35). -/
def Obligations.AbsentCsrAddresses : Prop :=
  (∀ (cfg : Config.Params) (a : CsrAddr),
    (a.extractLsb' 8 2 = 0b01#2 ∨ a.extractLsb' 8 2 = 0b10#2 ∨
      (a.toNat ≤ 0x0FF ∧ a ≠ 0x011#12 ∧ a ≠ 0x017#12) ∨
      (0x302 ≤ a.toNat ∧ a.toNat ≤ 0x303) ∨ (0x306 ≤ a.toNat ∧ a.toNat ≤ 0x30F) ∨ (0x311 ≤ a.toNat ∧ a.toNat ≤ 0x322) ∨
      (0x345 ≤ a.toNat ∧ a.toNat ≤ 0x39F) ∨ (0x3F0 ≤ a.toNat ∧ a.toNat ≤ 0x79F) ∨
      (0x7B0 ≤ a.toNat ∧ a.toNat ≤ 0xAFF) ∨ a = 0xB01#12 ∨ (0xB20 ≤ a.toNat ∧ a.toNat ≤ 0xB7F) ∨ a = 0xB81#12 ∨
      (0xBA0 ≤ a.toNat ∧ a.toNat ≤ 0xBFF) ∨ (0xC20 ≤ a.toNat ∧ a.toNat ≤ 0xC7F) ∨
      (0xCA0 ≤ a.toNat ∧ a.toNat ≤ 0xF10) ∨ 0xF16 ≤ a.toNat) →
    lookupCsr cfg a = .absent) ∧
  (∀ (cfg : Config.Params) (a : CsrAddr),
    (cfg.hasZicntr = false → (0xC00 ≤ a.toNat ∧ a.toNat ≤ 0xC02) ∨ (0xC80 ≤ a.toNat ∧ a.toNat ≤ 0xC82) →
      lookupCsr cfg a = .absent) ∧
    (cfg.hasZihpm = false → (0xC03 ≤ a.toNat ∧ a.toNat ≤ 0xC1F) ∨ (0xC83 ≤ a.toNat ∧ a.toNat ≤ 0xC9F) →
      lookupCsr cfg a = .absent) ∧
    (0x7A0 ≤ a.toNat ∧ a.toNat ≤ 0x7AF →
      lookupCsr cfg a = if cfg.hasTriggers then .outside .triggerCsr else .absent)) ∧
  ∀ cfg : Config.Params,
    lookupCsr cfg 0x011#12 = (if cfg.hasSsp then .outside .shadowStackCsr else .absent) ∧
    lookupCsr cfg 0x017#12 = (if cfg.hasJvt then .outside .tableJumpCsr else .absent)

/-- The machine information registers read their constants in every state (R31, R32, R33, R34, R35); that a write to one is an
illegal instruction is in `Obligations.IllegalCsrAccessTraps`. -/
def Obligations.InformationRegisters : Prop :=
  ∀ s : State,
    ReadsAs s 0xF11#12 0x00000602#32 ∧ ReadsAs s 0xF12#12 0x00000003#32 ∧ ReadsAs s 0xF13#12 0#32 ∧
    ReadsAs s 0xF14#12 0#32 ∧ ReadsAs s 0xF15#12 0#32

/-- The registers that exist and hold zero for ever: `mtval`, the upper PMP registers, the event counters and their selectors.
Every read returns 0 and every write is ignored without an exception (R47, R161, R164, R62, R63). -/
def Obligations.ReadOnlyZeroRegisters : Prop :=
  ∀ (s : State) (a : CsrAddr),
    (a = 0x343#12 ∨ (0x3A2 ≤ a.toNat ∧ a.toNat ≤ 0x3AF) ∨ (0x3B8 ≤ a.toNat ∧ a.toNat ≤ 0x3EF) ∨
      (0xB03 ≤ a.toNat ∧ a.toNat ≤ 0xB1F) ∨ (0xB83 ≤ a.toNat ∧ a.toNat ≤ 0xB9F) ∨
      (0x323 ≤ a.toNat ∧ a.toNat ≤ 0x33F)) →
    AlwaysReadsAs s a 0#32

/-- A write to a `pmpcfg` register treats each byte by itself: a locked entry keeps its byte, an unlocked one takes a legal byte as
written and some legal byte otherwise; only the four entries of the register change (R170, R165, R166). -/
def Obligations.PmpcfgWrite : Prop :=
  ∀ (s : State) (n : Nat) (v : Word), n < 2 →
    ∀ i : Fin 8,
      (i.val / 4 ≠ n ∨ pmpL s.pmpcfg[i] = true → (s.csrWrite (.pmpcfg n) v).pmpcfg[i] = s.pmpcfg[i]) ∧
      (i.val / 4 = n → pmpL s.pmpcfg[i] = false →
        pmpLegalByte (s.csrWrite (.pmpcfg n) v).pmpcfg[i] = true ∧
        (pmpLegalByte (wordByte v (i.val % 4) &&& 0x9F#8) = true →
          (s.csrWrite (.pmpcfg n) v).pmpcfg[i] = wordByte v (i.val % 4) &&& 0x9F#8))

/-- A write to `pmpaddrN` is ignored where entry N is locked, or the next entry is locked and TOR; else bits 31:1 take the written
value and bit 0 stays 0; no other address register changes (R171). That all of bits 31:1 are held is decision D16 (log entry 33). -/
def Obligations.PmpaddrWrite : Prop :=
  ∀ (s : State) (n : Fin 8) (v : Word),
    (AddressLocked s n → (s.csrWrite (.pmpaddr n.val) v).pmpaddr = s.pmpaddr) ∧
    (¬ AddressLocked s n → (s.csrWrite (.pmpaddr n.val) v).pmpaddr[n] = v &&& 0xFFFFFFFE#32 ∧
      ∀ m : Fin 8, m ≠ n → (s.csrWrite (.pmpaddr n.val) v).pmpaddr[m] = s.pmpaddr[m])

/-! ### Privileged instructions -/

/-- ECALL is the word 0x00000073; it takes the environment-call-from-M-mode exception and performs no other operation (R251). -/
def Obligations.EcallTraps : Prop :=
  decodeWord 0x00000073#32 = .instr .ecall ∧ ∀ s : State, Raises .ecall s 11#32

/-- EBREAK takes the breakpoint exception; C.EBREAK too where IALIGN = 16, and the illegal-instruction exception elsewhere
(R252, R204). -/
def Obligations.EbreakTraps : Prop :=
  ∀ s : State, Raises .ebreak s 3#32 ∧ (s.cfg.extC = true → Raises .cEbreak s 3#32) ∧
    (s.cfg.extC = false → Raises .cEbreak s 2#32)

/-- SRET, the word 0x10200073, raises the illegal-instruction exception and has no other effect (R254). -/
def Obligations.SretTraps : Prop :=
  decodeWord 0x10200073#32 = .instr .sret ∧ ∀ s : State, Raises .sret s 2#32

/-- Every privileged instruction of an extension this hardware lacks raises the illegal-instruction exception and has no other
effect (R257, D14). -/
def Obligations.AbsentInstructionsTrap : Prop :=
  ∀ (s : State) (rs1 rs2 rd : Reg) (f7 : BitVec 7),
    Raises .mnret s 2#32 ∧ Raises .dret s 2#32 ∧ Raises (.sfenceVma rs1 rs2) s 2#32 ∧
    Raises (.sinvalVma rs1 rs2) s 2#32 ∧ Raises .sfenceWInval s 2#32 ∧ Raises .sfenceInvalIr s 2#32 ∧
    Raises (.hfenceVvma rs1 rs2) s 2#32 ∧ Raises (.hfenceGvma rs1 rs2) s 2#32 ∧ Raises (.hinvalVvma rs1 rs2) s 2#32 ∧
    Raises (.hinvalGvma rs1 rs2) s 2#32 ∧ Raises .sctrclr s 2#32 ∧ Raises (.hlvHsv f7 rs2 rs1 rd) s 2#32

/-- MRET, the word 0x30200073: MIE takes MPIE, MPIE is set, control returns to `mepc`, the instruction retires, and an interrupt
takeable after it is taken at once; nothing else changes (R253). -/
def Obligations.MretReturns : Prop :=
  decodeWord 0x30200073#32 = .instr .mret ∧
  ∀ s : State, ∃ t, exec .mret s = .next t ∧ t.mstatusMie = s.mstatusMpie ∧ t.mstatusMpie = true ∧
    RetiredTo s t s.mepc ∧ t.mepc = s.mepc ∧ t.mcause = s.mcause ∧ t.priv = s.priv ∧ t.wfiStalled = s.wfiStalled ∧
    (t.csrRead .mstatus).extractLsb' 11 2 = 0b11#2 ∧ (t.tick.takeable = true → t.tick.interruptDue ≠ none) ∧
    SameRegs s t ∧ SameMemory s t ∧ SameCsrs s t ∧ SameInputs s t ∧ SameTimer s t

/-- An exception followed by an MRET comes back to the same `pc` with the same MIE, and with MPIE set (R330, R253, R336). -/
def Obligations.TrapThenMretRestores : Prop :=
  ∀ (s : State) (e : Exception), ∃ t, exec .mret (s.raise e) = .next t ∧ t.pc = s.pc ∧ t.mstatusMie = s.mstatusMie ∧
    t.mstatusMpie = true ∧ t.mcause = 0#1 ++ e.code ∧ t.minstret = s.minstret + 1 ∧
    SameRegs s t ∧ SameMemory s t ∧ SameCsrs s t

/-- WFI either completes as a NOP or stalls with `pc` at the WFI; which is a free draw. It never traps and changes no register and
no memory (R255). -/
def Obligations.WfiCompletesOrStalls : Prop :=
  ∀ s : State, s.wfiStalled = false →
    ∃ t, exec .wfi s = .next t ∧ SameRegs s t ∧ SameMemory s t ∧ SameCsrs s t ∧ SameInputs s t ∧ SameTimer s t ∧
      t.mstatusMie = s.mstatusMie ∧ t.mstatusMpie = s.mstatusMpie ∧ t.mepc = s.mepc ∧ t.mcause = s.mcause ∧
      t.priv = s.priv ∧
      (s.drawNow.wfiStall = false → RetiredTo s t (s.pc + 4#32) ∧ t.wfiStalled = false) ∧
      (s.drawNow.wfiStall = true → t.pc = s.pc ∧ t.minstret = s.minstret ∧ t.wfiStalled = true)

/-! ### The base instructions -/

/-- LUI: the word is the immediate, `rd`, 0110111; `rd` gets the immediate above 12 zeros (R274). -/
def Obligations.LuiResult : Prop :=
  ∀ (s : State) (rd : Reg) (imm20 : BitVec 20), decodeWord (imm20 ++ rd ++ 0b0110111#7) = .instr (.lui rd imm20) ∧
    ∃ t, exec (.lui rd imm20) s = .next t ∧ Computes s t rd (imm20 ++ 0#12)

/-- AUIPC: the word is the immediate, `rd`, 0010111; `rd` gets the address of the AUIPC plus the immediate above 12 zeros, modulo 2^32 (R275). -/
def Obligations.AuipcResult : Prop :=
  ∀ (s : State) (rd : Reg) (imm20 : BitVec 20),
    decodeWord (imm20 ++ rd ++ 0b0010111#7) = .instr (.auipc rd imm20) ∧
    ∃ t, exec (.auipc rd imm20) s = .next t ∧ Computes s t rd (s.pc + (imm20 ++ 0#12))

/-- ADDI: the word is the immediate, `rs1`, 000, `rd`, 0010011; `rd` gets `x[rs1]` plus the sign-extended immediate, modulo 2^32 (R276). -/
def Obligations.AddiResult : Prop :=
  ∀ (s : State) (rd rs1 : Reg) (imm12 : BitVec 12),
    decodeWord (imm12 ++ rs1 ++ 0b000#3 ++ rd ++ 0b0010011#7) = .instr (.addi rd rs1 imm12) ∧
    ∃ t, exec (.addi rd rs1 imm12) s = .next t ∧ Computes s t rd (s.getX rs1 + imm12.signExtend 32)

/-- FENCE retires and does nothing else; FENCE.I empties the stored-to marking, so that every byte may be fetched again, and does
nothing else (R279, R280, R143). -/
def Obligations.FencesRetire : Prop :=
  (∀ (s : State) (rd rs1 : Reg) (fm pred succ : BitVec 4),
    ∃ t, exec (.fence rd rs1 fm pred succ) s = .next t ∧ SameRegs s t ∧ OnlyRegisters s t ∧ RetiredTo s t (s.pc + 4#32)) ∧
  (∀ (s : State) (rd rs1 : Reg) (imm12 : BitVec 12),
    ∃ t, exec (.fenceI rd rs1 imm12) s = .next t ∧ SameRegs s t ∧ t.stored = [] ∧ (∀ a : Word, t.byteAt a = s.byteAt a) ∧
      SameCsrs s t ∧ SameTrapState s t ∧ SameInputs s t ∧ SameTimer s t ∧ SameDeferral s t ∧ RetiredTo s t (s.pc + 4#32))

/-- LW from main memory: the four bytes, the lowest address least significant (R277, R131, R121). -/
def Obligations.LwLoadsFromMemory : Prop :=
  ∀ (s : State) (rd rs1 : Reg) (imm12 : BitVec 12) (a : Word), a = s.getX rs1 + imm12.signExtend 32 →
    a.toNat % 4 = 0 → s.pmpAllows a 4 .read = true → pmaOk s.cfg a 4 .read = true → timerWordAt s.cfg a = none →
    ∃ t, exec (.lw rd rs1 imm12) s = .next t ∧
      Computes s t rd (s.byteAt (a + 3#32) ++ s.byteAt (a + 2#32) ++ s.byteAt (a + 1#32) ++ s.byteAt a)

/-- LW from the timer registers: each of the four addresses gives its half of `mtime` or `mtimecmp` (R341, R342). -/
def Obligations.LwReadsTheTimer : Prop :=
  ∀ (s : State) (rd rs1 : Reg) (imm12 : BitVec 12) (a : Word), a = s.getX rs1 + imm12.signExtend 32 →
    ParamsOk s.cfg → s.pmpAllows a 4 .read = true → pmaOk s.cfg a 4 .read = true →
    (a = s.cfg.mtimeAddr → ∃ t, exec (.lw rd rs1 imm12) s = .next t ∧ Computes s t rd (s.mtime.extractLsb' 0 32)) ∧
    (a = s.cfg.mtimeAddr + 4#32 → ∃ t, exec (.lw rd rs1 imm12) s = .next t ∧ Computes s t rd (s.mtime.extractLsb' 32 32)) ∧
    (a = s.cfg.mtimecmpAddr → ∃ t, exec (.lw rd rs1 imm12) s = .next t ∧ Computes s t rd (s.mtimecmp.extractLsb' 0 32)) ∧
    (a = s.cfg.mtimecmpAddr + 4#32 →
      ∃ t, exec (.lw rd rs1 imm12) s = .next t ∧ Computes s t rd (s.mtimecmp.extractLsb' 32 32))

/-- LW and SW raise the access fault where the PMP or the PMA denies, and the misaligned exception where the access is allowed and
misaligned; a misaligned access always raises one of the two (R131, R122, R311; the clauses without a cause leave open which,
D18). That it always traps is decision D4, and that it does so where its bytes wrap past the top is the model's choice against
D17 (log entry 21). A misaligned access that would touch the timer registers stops (R341). -/
def Obligations.DataAccessFaults : Prop :=
  ∀ (s : State) (r rs1 : Reg) (imm12 : BitVec 12) (a : Word), a = s.getX rs1 + imm12.signExtend 32 →
    ((pmaOk s.cfg a 4 .read = false ∨ (s.pmpAllows a 4 .read = false ∧ s.pmpAllowsSplit a 4 .read = false)) →
      Raises (.lw r rs1 imm12) s 5#32) ∧
    (a.toNat % 4 ≠ 0 → ¬ TouchesTimer s.cfg a →
      (s.pmpAllows a 4 .read = true → pmaOk s.cfg a 4 .read = true → Raises (.lw r rs1 imm12) s 4#32) ∧
      (Raises (.lw r rs1 imm12) s 4#32 ∨ Raises (.lw r rs1 imm12) s 5#32)) ∧
    (a.toNat % 4 ≠ 0 → TouchesTimer s.cfg a →
      (s.pmpAllows a 4 .read = true → pmaOk s.cfg a 4 .read = true →
        exec (.lw r rs1 imm12) s = .refused .timerMisaligned) ∧
      (exec (.lw r rs1 imm12) s = .refused .timerMisaligned ∨ Raises (.lw r rs1 imm12) s 5#32)) ∧
    ((pmaOk s.cfg a 4 .write = false ∨ (s.pmpAllows a 4 .write = false ∧ s.pmpAllowsSplit a 4 .write = false)) →
      Raises (.sw r rs1 imm12) s 7#32) ∧
    (a.toNat % 4 ≠ 0 → ¬ TouchesTimer s.cfg a →
      (s.pmpAllows a 4 .write = true → pmaOk s.cfg a 4 .write = true → Raises (.sw r rs1 imm12) s 6#32) ∧
      (Raises (.sw r rs1 imm12) s 6#32 ∨ Raises (.sw r rs1 imm12) s 7#32)) ∧
    (a.toNat % 4 ≠ 0 → TouchesTimer s.cfg a →
      (s.pmpAllows a 4 .write = true → pmaOk s.cfg a 4 .write = true →
        exec (.sw r rs1 imm12) s = .refused .timerMisaligned) ∧
      (exec (.sw r rs1 imm12) s = .refused .timerMisaligned ∨ Raises (.sw r rs1 imm12) s 7#32))

/-- SW to main memory: the four bytes at the effective address take the register's bytes, the least significant lowest, and are
marked as stored to; every other byte, register and CSR is as before (R278, R131, R121, R143). -/
def Obligations.SwStoresToMemory : Prop :=
  ∀ (s : State) (rs2 rs1 : Reg) (imm12 : BitVec 12) (a : Word), a = s.effectiveAddress rs1 imm12 →
    a.toNat % 4 = 0 → s.pmpAllows a 4 .write = true → pmaOk s.cfg a 4 .write = true → timerWordAt s.cfg a = none →
    ∃ t, exec (.sw rs2 rs1 imm12) s = .next t ∧
      t.byteAt a = wordByte (s.getX rs2) 0 ∧ t.byteAt (a + 1#32) = wordByte (s.getX rs2) 1 ∧
      t.byteAt (a + 2#32) = wordByte (s.getX rs2) 2 ∧ t.byteAt (a + 3#32) = wordByte (s.getX rs2) 3 ∧
      (∀ b : Word, b ≠ a → b ≠ a + 1#32 → b ≠ a + 2#32 → b ≠ a + 3#32 → t.byteAt b = s.byteAt b) ∧
      (∀ k : Nat, k ∈ t.stored ↔ k ∈ s.stored ∨ (a.toNat ≤ k ∧ k < a.toNat + 4)) ∧
      SameRegs s t ∧ SameCsrs s t ∧ SameTrapState s t ∧ SameInputs s t ∧ SameTimer s t ∧ SameDeferral s t ∧
      RetiredTo s t (s.pc + 4#32)

/-- SW to the timer registers: the addressed half of `mtime` or `mtimecmp` takes the register's value, the other half and the other
register stay, and main memory is as before (R341, R342). -/
def Obligations.SwWritesTheTimer : Prop :=
  ∀ (s : State) (rs2 rs1 : Reg) (imm12 : BitVec 12) (a : Word), a = s.effectiveAddress rs1 imm12 →
    ParamsOk s.cfg → s.pmpAllows a 4 .write = true → pmaOk s.cfg a 4 .write = true →
    (a = s.cfg.mtimeAddr ∨ a = s.cfg.mtimeAddr + 4#32 ∨ a = s.cfg.mtimecmpAddr ∨ a = s.cfg.mtimecmpAddr + 4#32) →
    ∃ t, exec (.sw rs2 rs1 imm12) s = .next t ∧
      (t.mtime =
        if a = s.cfg.mtimeAddr then s.mtime.extractLsb' 32 32 ++ s.getX rs2
        else if a = s.cfg.mtimeAddr + 4#32 then s.getX rs2 ++ s.mtime.extractLsb' 0 32 else s.mtime) ∧
      (t.mtimecmp =
        if a = s.cfg.mtimecmpAddr then s.mtimecmp.extractLsb' 32 32 ++ s.getX rs2
        else if a = s.cfg.mtimecmpAddr + 4#32 then s.getX rs2 ++ s.mtimecmp.extractLsb' 0 32 else s.mtimecmp) ∧
      SameRegs s t ∧ SameMemory s t ∧ SameCsrs s t ∧ SameTrapState s t ∧ SameInputs s t ∧ SameDeferral s t ∧
      RetiredTo s t (s.pc + 4#32)

/-- What SW stores to main memory, LW loads back from the same address, whatever registers and immediates form it (R131, R140). -/
def Obligations.StoreThenLoad : Prop :=
  ∀ (s t : State) (rs2 rs1 rd rs3 : Reg) (imm imm' : BitVec 12),
    exec (.sw rs2 rs1 imm) s = .next t → t.minstret = s.minstret + 1 →
    timerWordAt s.cfg (s.effectiveAddress rs1 imm) = none →
    t.effectiveAddress rs3 imm' = s.effectiveAddress rs1 imm →
    t.pmpAllows (s.effectiveAddress rs1 imm) 4 .read = true → pmaOk s.cfg (s.effectiveAddress rs1 imm) 4 .read = true →
    ∃ u, exec (.lw rd rs3 imm') t = .next u ∧ Computes t u rd (s.getX rs2)

/-- JAL to an aligned target: `rd` gets the address after the JAL, control goes to the target (R281). -/
def Obligations.JalJumps : Prop :=
  ∀ (s : State) (rd : Reg) (offset : BitVec 21) (target : Word), target = s.pc + offset.signExtend 32 →
    ialigned s.cfg target = true →
    ∃ t, exec (.jal rd offset) s = .next t ∧ RegResult s t rd (s.pc + 4#32) ∧ OnlyRegisters s t ∧ RetiredTo s t target

/-- BNE: taken exactly where the registers differ, falling through otherwise; no register is written (R282). -/
def Obligations.BneBranches : Prop :=
  ∀ (s : State) (rs1 rs2 : Reg) (offset : BitVec 13) (target : Word), target = s.pc + offset.signExtend 32 →
    (s.getX rs1 ≠ s.getX rs2 → ialigned s.cfg target = true →
      ∃ t, exec (.bne rs1 rs2 offset) s = .next t ∧ SameRegs s t ∧ OnlyRegisters s t ∧ RetiredTo s t target) ∧
    (s.getX rs1 = s.getX rs2 →
      ∃ t, exec (.bne rs1 rs2 offset) s = .next t ∧ SameRegs s t ∧ OnlyRegisters s t ∧ RetiredTo s t (s.pc + 4#32))

/-- A jump or taken branch to a target that is not IALIGN-aligned raises the misaligned-address exception on itself and writes no
register; where IALIGN = 16 no well-formed jump or branch at an aligned address has such a target (R123, R281, R282). -/
def Obligations.MisalignedTargets : Prop :=
  (∀ (s : State) (rd : Reg) (offset : BitVec 21), ialigned s.cfg (s.pc + offset.signExtend 32) = false →
    Raises (.jal rd offset) s 0#32) ∧
  (∀ (s : State) (rs1 rs2 : Reg) (offset : BitVec 13), s.getX rs1 ≠ s.getX rs2 →
    ialigned s.cfg (s.pc + offset.signExtend 32) = false → Raises (.bne rs1 rs2 offset) s 0#32) ∧
  (∀ (s : State), s.cfg.extC = true → ialigned s.cfg s.pc = true →
    (∀ (rd : Reg) (offset : BitVec 21), (Instr.jal rd offset).wellFormed = true →
      ialigned s.cfg (s.pc + offset.signExtend 32) = true) ∧
    (∀ (rs1 rs2 : Reg) (offset : BitVec 13), (Instr.bne rs1 rs2 offset).wellFormed = true →
      ialigned s.cfg (s.pc + offset.signExtend 32) = true))

/-! ### Physical memory protection -/

/-- For an aligned word the first entry that matches decides: an unlocked one allows, a locked one allows what its R, W or X bit
permits; with no match the access succeeds (R174, R175, R169, R162). A TOR entry matches the addresses from the address
register below it, zero for entry 0, up to its own; an entry that is OFF matches none (R167). -/
def Obligations.PmpFirstMatchDecides : Prop :=
  ∀ (s : State) (a : Word),
    (∀ type : AccessType, a.toNat % 4 = 0 → (∀ i : Fin 8, (s.pmpEntry i).matchesByte a = false) →
      s.pmpAllows a 4 type = true) ∧
    (∀ i : Fin 8, a.toNat % 4 = 0 → FirstMatch s a i →
      s.pmpAllows a 4 .read = (!s.pmpcfg[i].getLsbD 7 || s.pmpcfg[i].getLsbD 0) ∧
      s.pmpAllows a 4 .write = (!s.pmpcfg[i].getLsbD 7 || s.pmpcfg[i].getLsbD 1) ∧
      s.pmpAllows a 4 .execute = (!s.pmpcfg[i].getLsbD 7 || s.pmpcfg[i].getLsbD 2)) ∧
    (∀ i : Fin 8,
      (s.pmpcfg[i].extractLsb' 3 2 = 0#2 → (s.pmpEntry i).matchesByte a = false) ∧
      (s.pmpcfg[i].extractLsb' 3 2 = 1#2 →
        ((s.pmpEntry i).matchesByte a = true ↔
          (∀ j : Fin 8, j.val + 1 = i.val → s.pmpaddr[j].toNat ≤ a.toNat / 4) ∧ a.toNat / 4 < s.pmpaddr[i].toNat)))

/-- Where no entry is locked the PMP denies no aligned word access, and where every entry is OFF it denies nothing at all
(R169, R172, R175). -/
def Obligations.UnlockedPmpDeniesNothing : Prop :=
  (∀ (s : State) (a : Word) (type : AccessType), (∀ i : Fin 8, pmpL s.pmpcfg[i] = false) → a.toNat % 4 = 0 →
    s.pmpAllows a 4 type = true) ∧
  (∀ (s : State) (a : Word) (n : Nat) (type : AccessType), (∀ i : Fin 8, pmpA s.pmpcfg[i] = 0#2) →
    s.pmpAllows a n type = true)

/-- No step changes a locked entry: its configuration, its address register and, where it is TOR, the address register below it
(R169, R170, R171). -/
def Obligations.LockedPmpEntriesPersist : Prop :=
  ∀ (s t : State), step s = .next t → ∀ i : Fin 8, Locked s i →
    Locked t i ∧ t.pmpcfg[i] = s.pmpcfg[i] ∧ t.pmpaddr[i] = s.pmpaddr[i] ∧
      (pmpA s.pmpcfg[i] = 1#2 → ∀ j : Fin 8, j.val + 1 = i.val → t.pmpaddr[j] = s.pmpaddr[j])

/-- A byte that a locked entry without W decides keeps its value in every run, as long as the entries of higher priority are locked
too (R169, R171, R177): the protection software can set up against itself. -/
def Obligations.ReadOnlyRegionsStayUnmodified : Prop :=
  ∀ (k : Nat) (s t : State) (a : Word) (i : Fin 8), FirstMatch s a i → (∀ j : Fin 8, j ≤ i → Locked s j) →
    pmpW s.pmpcfg[i] = false → Host.Core.run Sys2Proof.core k s = .next t → t.byteAt a = s.byteAt a

/-! ### The whole machine -/

/-- The invariant is kept by every step: canonical memory, aligned `pc` and `mepc`, M mode, legal PMP fields, a supported
`mcause` (R21, R22, R45, R46, R163, R165, R166). -/
def Obligations.InvariantIsKept : Prop := ∀ (s t : State), Invariant s → step s = .next t → Invariant t

/-- Every state the spec allows after reset satisfies the invariant (R370, R372). -/
def Obligations.ResetStatesSatisfyTheInvariant : Prop := ∀ s : State, IsResetState s → Invariant s

/-- The model's reset state is one of the states the spec allows after reset, so the values the model chose there (log entries 1 to
10) contradict none of the spec's (R370, R80). -/
def Obligations.ResetIsAResetState : Prop := IsResetState State.reset

/-- The mode stays M (R22, R302) and the parameters, which the model holds in `State.cfg` (log entry 8), never change: they are
fixed for a run. -/
def Obligations.ModeAndParametersNeverChange : Prop :=
  ∀ (s t : State), step s = .next t → (s.priv = .machine → t.priv = .machine) ∧ t.cfg = s.cfg

/-- Only a CSR instruction changes `mtvec`, `mie`, `mscratch` or a PMP register: no trap, no event and no other instruction does
(R270, R330, R335). -/
def Obligations.OnlyCsrInstructionsWriteControlState : Prop :=
  ∀ (s t : State), step s = .next t →
    (t.mtvecBase ≠ s.mtvecBase ∨ t.mieMeie ≠ s.mieMeie ∨ t.mieMtie ≠ s.mieMtie ∨ t.mscratch ≠ s.mscratch ∨
      t.pmpcfg ≠ s.pmpcfg ∨ t.pmpaddr ≠ s.pmpaddr) →
    ∃ i, RunsAt s i ∧ isCsrInstr i = true

/-- Only traps, NMIs and CSR instructions write `mepc` and `mcause`: where another step changes one, `mepc` is the address of the
instruction at `pc` or, after a stalled WFI, the next one, control is at the trap target or the NMI vector, and `mcause` is
one of the values the hardware writes (R45, R303, R330, R335). -/
def Obligations.WhatWritesTheTrapRegisters : Prop :=
  ∀ (s t : State), step s = .next t → (t.mepc ≠ s.mepc ∨ t.mcause ≠ s.mcause) →
    (∃ i, RunsAt s i ∧ isCsrInstr i = true) ∨
      ((t.mepc = s.pc ∨ (s.wfiStalled = true ∧ t.mepc = s.pc + 4#32)) ∧
       (t.pc = s.mtvecBase ++ 0#2 ∨ s.cfg.nmi = some t.pc) ∧
       (t.mcause.toNat ≤ 7 ∨ t.mcause = 0xB#32 ∨ t.mcause = 0x80000007#32 ∨ t.mcause = 0x8000000B#32 ∨
         t.mcause = 0x80000000#32))

/-- Interrupts become enabled only by an MRET whose MPIE is set, by a CSR instruction, or by an NMI, after which MIE is free
(R37, R253, R330, R335). -/
def Obligations.WhatEnablesInterrupts : Prop :=
  ∀ (s t : State), step s = .next t → s.mstatusMie = false → t.mstatusMie = true →
    (RunsAt s .mret ∧ s.mstatusMpie = true) ∨ (∃ i, RunsAt s i ∧ isCsrInstr i = true) ∨ s.nmiDue ≠ none

/-- A step counts at most one instruction: `minstret` stays, or grows by one, or a CSR instruction wrote it; and it stays where the
step took a trap at an instruction boundary (R348, R331). -/
def Obligations.MinstretCountsRetirement : Prop :=
  (∀ (s t : State), step s = .next t →
    t.minstret = s.minstret ∨ t.minstret = s.minstret + 1 ∨ ∃ i, RunsAt s i ∧ isCsrInstr i = true) ∧
  (∀ (s t u : State), s.wfiStalled = false → s.takeEvent = some u → step s = .next t → t.minstret = s.minstret)

/-- A stall begins only with a WFI, and a stalled hart writes no register and no memory (R353, R255). -/
def Obligations.StallsBeginOnlyWithWfi : Prop :=
  (∀ (s t : State), step s = .next t → s.wfiStalled = false → t.wfiStalled = true → RunsAt s .wfi) ∧
  (∀ (s t : State), step s = .next t → s.wfiStalled = true → SameRegs s t ∧ SameMemory s t)

end Statements
end

