-- ==== Sys2Proof/Laws/Encoding.lean ====
section
/-! SUPPORT. The fields of an encoded word, and words rebuilt from their fields: one lemma per field of each format (R200,
R271). -/

namespace Sys2Proof

/-- A concatenation as a number. -/
theorem toNat_cat {n m : Nat} (x : BitVec n) (y : BitVec m) : (x ++ y).toNat = x.toNat * 2 ^ m + y.toNat := by
  rw [BitVec.toNat_append, ← Nat.shiftLeft_add_eq_or_of_lt y.isLt, Nat.shiftLeft_eq]

/-! ### The I format -/

@[simp] theorem opcodeOf_encodeI (imm : BitVec 12) (rs1 : Reg) (f : BitVec 3) (rd : Reg) (op : BitVec 7) :
    opcodeOf (encodeI imm rs1 f rd op) = op := by
  apply BitVec.eq_of_getLsbD_eq
  intro i hi
  unfold opcodeOf encodeI
  interval_cases i <;> (simp only [BitVec.getLsbD_append, BitVec.getLsbD_extractLsb']; simp)

@[simp] theorem rdOf_encodeI (imm : BitVec 12) (rs1 : Reg) (f : BitVec 3) (rd : Reg) (op : BitVec 7) :
    rdOf (encodeI imm rs1 f rd op) = rd := by
  apply BitVec.eq_of_getLsbD_eq
  intro i hi
  unfold rdOf encodeI
  interval_cases i <;> (simp only [BitVec.getLsbD_append, BitVec.getLsbD_extractLsb']; simp)

@[simp] theorem funct3Of_encodeI (imm : BitVec 12) (rs1 : Reg) (f : BitVec 3) (rd : Reg) (op : BitVec 7) :
    funct3Of (encodeI imm rs1 f rd op) = f := by
  apply BitVec.eq_of_getLsbD_eq
  intro i hi
  unfold funct3Of encodeI
  interval_cases i <;> (simp only [BitVec.getLsbD_append, BitVec.getLsbD_extractLsb']; simp)

@[simp] theorem rs1Of_encodeI (imm : BitVec 12) (rs1 : Reg) (f : BitVec 3) (rd : Reg) (op : BitVec 7) :
    rs1Of (encodeI imm rs1 f rd op) = rs1 := by
  apply BitVec.eq_of_getLsbD_eq
  intro i hi
  unfold rs1Of encodeI
  interval_cases i <;> (simp only [BitVec.getLsbD_append, BitVec.getLsbD_extractLsb']; simp)

@[simp] theorem funct12Of_encodeI (imm : BitVec 12) (rs1 : Reg) (f : BitVec 3) (rd : Reg) (op : BitVec 7) :
    funct12Of (encodeI imm rs1 f rd op) = imm := by
  apply BitVec.eq_of_getLsbD_eq
  intro i hi
  unfold funct12Of encodeI
  interval_cases i <;> (simp only [BitVec.getLsbD_append, BitVec.getLsbD_extractLsb']; simp)

/-- A word is its fields in the I format. -/
theorem encodeI_fields (w : Word) :
    encodeI (funct12Of w) (rs1Of w) (funct3Of w) (rdOf w) (opcodeOf w) = w := by
  apply BitVec.eq_of_getLsbD_eq
  intro i hi
  unfold encodeI funct12Of rs1Of funct3Of rdOf opcodeOf
  interval_cases i <;> (simp only [BitVec.getLsbD_append, BitVec.getLsbD_extractLsb']; simp)

/-! ### The R format -/

@[simp] theorem opcodeOf_encodeR (f7 : BitVec 7) (rs2 rs1 : Reg) (f : BitVec 3) (rd : Reg) (op : BitVec 7) :
    opcodeOf (encodeR f7 rs2 rs1 f rd op) = op := by
  apply BitVec.eq_of_getLsbD_eq
  intro i hi
  unfold opcodeOf encodeR
  interval_cases i <;> (simp only [BitVec.getLsbD_append, BitVec.getLsbD_extractLsb']; simp)

@[simp] theorem rdOf_encodeR (f7 : BitVec 7) (rs2 rs1 : Reg) (f : BitVec 3) (rd : Reg) (op : BitVec 7) :
    rdOf (encodeR f7 rs2 rs1 f rd op) = rd := by
  apply BitVec.eq_of_getLsbD_eq
  intro i hi
  unfold rdOf encodeR
  interval_cases i <;> (simp only [BitVec.getLsbD_append, BitVec.getLsbD_extractLsb']; simp)

@[simp] theorem funct3Of_encodeR (f7 : BitVec 7) (rs2 rs1 : Reg) (f : BitVec 3) (rd : Reg) (op : BitVec 7) :
    funct3Of (encodeR f7 rs2 rs1 f rd op) = f := by
  apply BitVec.eq_of_getLsbD_eq
  intro i hi
  unfold funct3Of encodeR
  interval_cases i <;> (simp only [BitVec.getLsbD_append, BitVec.getLsbD_extractLsb']; simp)

@[simp] theorem rs1Of_encodeR (f7 : BitVec 7) (rs2 rs1 : Reg) (f : BitVec 3) (rd : Reg) (op : BitVec 7) :
    rs1Of (encodeR f7 rs2 rs1 f rd op) = rs1 := by
  apply BitVec.eq_of_getLsbD_eq
  intro i hi
  unfold rs1Of encodeR
  interval_cases i <;> (simp only [BitVec.getLsbD_append, BitVec.getLsbD_extractLsb']; simp)

@[simp] theorem rs2Of_encodeR (f7 : BitVec 7) (rs2 rs1 : Reg) (f : BitVec 3) (rd : Reg) (op : BitVec 7) :
    rs2Of (encodeR f7 rs2 rs1 f rd op) = rs2 := by
  apply BitVec.eq_of_getLsbD_eq
  intro i hi
  unfold rs2Of encodeR
  interval_cases i <;> (simp only [BitVec.getLsbD_append, BitVec.getLsbD_extractLsb']; simp)

@[simp] theorem funct7Of_encodeR (f7 : BitVec 7) (rs2 rs1 : Reg) (f : BitVec 3) (rd : Reg) (op : BitVec 7) :
    funct7Of (encodeR f7 rs2 rs1 f rd op) = f7 := by
  apply BitVec.eq_of_getLsbD_eq
  intro i hi
  unfold funct7Of encodeR
  interval_cases i <;> (simp only [BitVec.getLsbD_append, BitVec.getLsbD_extractLsb']; simp)

/-- A word is its fields in the R format. -/
theorem encodeR_fields (w : Word) :
    encodeR (funct7Of w) (rs2Of w) (rs1Of w) (funct3Of w) (rdOf w) (opcodeOf w) = w := by
  apply BitVec.eq_of_getLsbD_eq
  intro i hi
  unfold encodeR funct7Of rs2Of rs1Of funct3Of rdOf opcodeOf
  interval_cases i <;> (simp only [BitVec.getLsbD_append, BitVec.getLsbD_extractLsb']; simp)

/-! ### The S format -/

@[simp] theorem opcodeOf_encodeS (imm : BitVec 12) (rs2 rs1 : Reg) (f : BitVec 3) (op : BitVec 7) :
    opcodeOf (encodeS imm rs2 rs1 f op) = op := by
  apply BitVec.eq_of_getLsbD_eq
  intro i hi
  unfold opcodeOf encodeS
  interval_cases i <;> (simp only [BitVec.getLsbD_append, BitVec.getLsbD_extractLsb']; simp)

@[simp] theorem funct3Of_encodeS (imm : BitVec 12) (rs2 rs1 : Reg) (f : BitVec 3) (op : BitVec 7) :
    funct3Of (encodeS imm rs2 rs1 f op) = f := by
  apply BitVec.eq_of_getLsbD_eq
  intro i hi
  unfold funct3Of encodeS
  interval_cases i <;> (simp only [BitVec.getLsbD_append, BitVec.getLsbD_extractLsb']; simp)

@[simp] theorem rs1Of_encodeS (imm : BitVec 12) (rs2 rs1 : Reg) (f : BitVec 3) (op : BitVec 7) :
    rs1Of (encodeS imm rs2 rs1 f op) = rs1 := by
  apply BitVec.eq_of_getLsbD_eq
  intro i hi
  unfold rs1Of encodeS
  interval_cases i <;> (simp only [BitVec.getLsbD_append, BitVec.getLsbD_extractLsb']; simp)

@[simp] theorem rs2Of_encodeS (imm : BitVec 12) (rs2 rs1 : Reg) (f : BitVec 3) (op : BitVec 7) :
    rs2Of (encodeS imm rs2 rs1 f op) = rs2 := by
  apply BitVec.eq_of_getLsbD_eq
  intro i hi
  unfold rs2Of encodeS
  interval_cases i <;> (simp only [BitVec.getLsbD_append, BitVec.getLsbD_extractLsb']; simp)

@[simp] theorem immSOf_encodeS (imm : BitVec 12) (rs2 rs1 : Reg) (f : BitVec 3) (op : BitVec 7) :
    immSOf (encodeS imm rs2 rs1 f op) = imm := by
  apply BitVec.eq_of_getLsbD_eq
  intro i hi
  unfold immSOf encodeS
  interval_cases i <;> (simp only [BitVec.getLsbD_append, BitVec.getLsbD_extractLsb']; simp)

/-- A word is its fields in the S format. -/
theorem encodeS_fields (w : Word) :
    encodeS (immSOf w) (rs2Of w) (rs1Of w) (funct3Of w) (opcodeOf w) = w := by
  apply BitVec.eq_of_getLsbD_eq
  intro i hi
  unfold encodeS immSOf rs2Of rs1Of funct3Of opcodeOf
  interval_cases i <;> (simp only [BitVec.getLsbD_append, BitVec.getLsbD_extractLsb']; simp)

/-! ### The B format -/

@[simp] theorem opcodeOf_encodeB (off : BitVec 13) (rs2 rs1 : Reg) (f : BitVec 3) (op : BitVec 7) :
    opcodeOf (encodeB off rs2 rs1 f op) = op := by
  apply BitVec.eq_of_getLsbD_eq
  intro i hi
  unfold opcodeOf encodeB
  interval_cases i <;> (simp only [BitVec.getLsbD_append, BitVec.getLsbD_extractLsb']; simp)

@[simp] theorem funct3Of_encodeB (off : BitVec 13) (rs2 rs1 : Reg) (f : BitVec 3) (op : BitVec 7) :
    funct3Of (encodeB off rs2 rs1 f op) = f := by
  apply BitVec.eq_of_getLsbD_eq
  intro i hi
  unfold funct3Of encodeB
  interval_cases i <;> (simp only [BitVec.getLsbD_append, BitVec.getLsbD_extractLsb']; simp)

@[simp] theorem rs1Of_encodeB (off : BitVec 13) (rs2 rs1 : Reg) (f : BitVec 3) (op : BitVec 7) :
    rs1Of (encodeB off rs2 rs1 f op) = rs1 := by
  apply BitVec.eq_of_getLsbD_eq
  intro i hi
  unfold rs1Of encodeB
  interval_cases i <;> (simp only [BitVec.getLsbD_append, BitVec.getLsbD_extractLsb']; simp)

@[simp] theorem rs2Of_encodeB (off : BitVec 13) (rs2 rs1 : Reg) (f : BitVec 3) (op : BitVec 7) :
    rs2Of (encodeB off rs2 rs1 f op) = rs2 := by
  apply BitVec.eq_of_getLsbD_eq
  intro i hi
  unfold rs2Of encodeB
  interval_cases i <;> (simp only [BitVec.getLsbD_append, BitVec.getLsbD_extractLsb']; simp)

theorem offsetBOf_encodeB (off : BitVec 13) (rs2 rs1 : Reg) (f : BitVec 3) (op : BitVec 7)
    (h : off.extractLsb' 0 1 = 0#1) : offsetBOf (encodeB off rs2 rs1 f op) = off := by
  have h0 : off[0] = false := by simpa using congrArg (BitVec.getLsbD · 0) h
  apply BitVec.eq_of_getLsbD_eq
  intro i hi
  unfold offsetBOf encodeB
  interval_cases i <;> (simp only [BitVec.getLsbD_append, BitVec.getLsbD_extractLsb']; try simp [h0])

theorem offsetBOf_even (w : Word) : (offsetBOf w).extractLsb' 0 1 = 0#1 := by
  apply BitVec.eq_of_getLsbD_eq
  intro i hi
  unfold offsetBOf
  interval_cases i
  simp only [BitVec.getLsbD_append, BitVec.getLsbD_extractLsb']
  simp

/-- A word is its fields in the B format. -/
theorem encodeB_fields (w : Word) :
    encodeB (offsetBOf w) (rs2Of w) (rs1Of w) (funct3Of w) (opcodeOf w) = w := by
  apply BitVec.eq_of_getLsbD_eq
  intro i hi
  unfold encodeB offsetBOf rs2Of rs1Of funct3Of opcodeOf
  interval_cases i <;> (simp only [BitVec.getLsbD_append, BitVec.getLsbD_extractLsb']; simp)

/-! ### The U format -/

@[simp] theorem opcodeOf_encodeU (imm : BitVec 20) (rd : Reg) (op : BitVec 7) :
    opcodeOf (encodeU imm rd op) = op := by
  apply BitVec.eq_of_getLsbD_eq
  intro i hi
  unfold opcodeOf encodeU
  interval_cases i <;> (simp only [BitVec.getLsbD_append, BitVec.getLsbD_extractLsb']; simp)

@[simp] theorem rdOf_encodeU (imm : BitVec 20) (rd : Reg) (op : BitVec 7) :
    rdOf (encodeU imm rd op) = rd := by
  apply BitVec.eq_of_getLsbD_eq
  intro i hi
  unfold rdOf encodeU
  interval_cases i <;> (simp only [BitVec.getLsbD_append, BitVec.getLsbD_extractLsb']; simp)

@[simp] theorem imm20Of_encodeU (imm : BitVec 20) (rd : Reg) (op : BitVec 7) :
    imm20Of (encodeU imm rd op) = imm := by
  apply BitVec.eq_of_getLsbD_eq
  intro i hi
  unfold imm20Of encodeU
  interval_cases i <;> (simp only [BitVec.getLsbD_append, BitVec.getLsbD_extractLsb']; simp)

/-- A word is its fields in the U format. -/
theorem encodeU_fields (w : Word) :
    encodeU (imm20Of w) (rdOf w) (opcodeOf w) = w := by
  apply BitVec.eq_of_getLsbD_eq
  intro i hi
  unfold encodeU imm20Of rdOf opcodeOf
  interval_cases i <;> (simp only [BitVec.getLsbD_append, BitVec.getLsbD_extractLsb']; simp)

/-! ### The J format -/

@[simp] theorem opcodeOf_encodeJ (off : BitVec 21) (rd : Reg) (op : BitVec 7) :
    opcodeOf (encodeJ off rd op) = op := by
  apply BitVec.eq_of_getLsbD_eq
  intro i hi
  unfold opcodeOf encodeJ
  interval_cases i <;> (simp only [BitVec.getLsbD_append, BitVec.getLsbD_extractLsb']; simp)

@[simp] theorem rdOf_encodeJ (off : BitVec 21) (rd : Reg) (op : BitVec 7) :
    rdOf (encodeJ off rd op) = rd := by
  apply BitVec.eq_of_getLsbD_eq
  intro i hi
  unfold rdOf encodeJ
  interval_cases i <;> (simp only [BitVec.getLsbD_append, BitVec.getLsbD_extractLsb']; simp)

theorem offsetJOf_encodeJ (off : BitVec 21) (rd : Reg) (op : BitVec 7)
    (h : off.extractLsb' 0 1 = 0#1) : offsetJOf (encodeJ off rd op) = off := by
  have h0 : off[0] = false := by simpa using congrArg (BitVec.getLsbD · 0) h
  apply BitVec.eq_of_getLsbD_eq
  intro i hi
  unfold offsetJOf encodeJ
  interval_cases i <;> (simp only [BitVec.getLsbD_append, BitVec.getLsbD_extractLsb']; try simp [h0])

theorem offsetJOf_even (w : Word) : (offsetJOf w).extractLsb' 0 1 = 0#1 := by
  apply BitVec.eq_of_getLsbD_eq
  intro i hi
  unfold offsetJOf
  interval_cases i
  simp only [BitVec.getLsbD_append, BitVec.getLsbD_extractLsb']
  simp

/-- A word is its fields in the J format. -/
theorem encodeJ_fields (w : Word) :
    encodeJ (offsetJOf w) (rdOf w) (opcodeOf w) = w := by
  apply BitVec.eq_of_getLsbD_eq
  intro i hi
  unfold encodeJ offsetJOf rdOf opcodeOf
  interval_cases i <;> (simp only [BitVec.getLsbD_append, BitVec.getLsbD_extractLsb']; simp)

/-! ### FENCE's three fields -/

theorem fence_fm (fm pred succ : BitVec 4) (rs1 : Reg) (f : BitVec 3) (rd : Reg) (op : BitVec 7) :
    (encodeI (fm ++ pred ++ succ) rs1 f rd op).extractLsb' 28 4 = fm := by
  apply BitVec.eq_of_getLsbD_eq
  intro i hi
  unfold encodeI
  interval_cases i <;> (simp only [BitVec.getLsbD_append, BitVec.getLsbD_extractLsb']; simp)

theorem fence_pred (fm pred succ : BitVec 4) (rs1 : Reg) (f : BitVec 3) (rd : Reg) (op : BitVec 7) :
    (encodeI (fm ++ pred ++ succ) rs1 f rd op).extractLsb' 24 4 = pred := by
  apply BitVec.eq_of_getLsbD_eq
  intro i hi
  unfold encodeI
  interval_cases i <;> (simp only [BitVec.getLsbD_append, BitVec.getLsbD_extractLsb']; simp)

theorem fence_succ (fm pred succ : BitVec 4) (rs1 : Reg) (f : BitVec 3) (rd : Reg) (op : BitVec 7) :
    (encodeI (fm ++ pred ++ succ) rs1 f rd op).extractLsb' 20 4 = succ := by
  apply BitVec.eq_of_getLsbD_eq
  intro i hi
  unfold encodeI
  interval_cases i <;> (simp only [BitVec.getLsbD_append, BitVec.getLsbD_extractLsb']; simp)

/-- The three fields together are bits 31:20. -/
theorem fence_fields (w : Word) : w.extractLsb' 28 4 ++ w.extractLsb' 24 4 ++ w.extractLsb' 20 4 = funct12Of w := by
  apply BitVec.eq_of_getLsbD_eq
  intro i hi
  unfold funct12Of
  interval_cases i <;> (simp only [BitVec.getLsbD_append, BitVec.getLsbD_extractLsb']; simp)

/-! ### The decoder's chain of tests -/

/-- One test of the chain: it holds and its branch is the answer, or it fails and the rest of the chain is. (`split` on the whole
chain is slow.) -/
theorem ite_answer {c : Prop} [Decidable c] {α : Type} {a b x : α} (h : (if c then a else b) = x) :
    (c ∧ a = x) ∨ (¬ c ∧ b = x) := by
  by_cases hc : c
  · rw [if_pos hc] at h; exact .inl ⟨hc, h⟩
  · rw [if_neg hc] at h; exact .inr ⟨hc, h⟩

/-- The last value of `funct3`. -/
theorem funct3_seven (f : BitVec 3) (h0 : f ≠ 0#3) (h1 : f ≠ 1#3) (h2 : f ≠ 2#3) (h3 : f ≠ 3#3) (h4 : f ≠ 4#3)
    (h5 : f ≠ 5#3) (h6 : f ≠ 6#3) : f = 7#3 := by
  have := f.isLt
  simp only [ne_eq, ← BitVec.toNat_inj, BitVec.toNat_ofNat] at *
  omega

/-! ### Bytes, parcels, words -/

/-- The two bytes of a parcel, put together again. -/
theorem bytes_of_parcel (p : Parcel) : p.extractLsb' 8 8 ++ p.extractLsb' 0 8 = p := by
  apply BitVec.eq_of_getLsbD_eq
  intro i hi
  interval_cases i <;> (simp only [BitVec.getLsbD_append, BitVec.getLsbD_extractLsb']; simp)

/-- The four bytes of a word, by its parcels, put together again. -/
theorem bytes_of_word (w : Word) :
    (w.extractLsb' 16 16).extractLsb' 8 8 ++ (w.extractLsb' 16 16).extractLsb' 0 8 ++
      (w.extractLsb' 0 16).extractLsb' 8 8 ++ (w.extractLsb' 0 16).extractLsb' 0 8 = w := by
  apply BitVec.eq_of_getLsbD_eq
  intro i hi
  interval_cases i <;> (simp only [BitVec.getLsbD_append, BitVec.getLsbD_extractLsb']; simp)

/-- The bytes of a parcel put together from two bytes. -/
theorem parcelBytes_of_bytes (b1 b0 : Byte) : parcelBytes (b1 ++ b0) = [b0, b1] := by
  have h0 : (b1 ++ b0 : Parcel).extractLsb' 0 8 = b0 := by
    apply BitVec.eq_of_getLsbD_eq
    intro i hi
    interval_cases i <;> (simp only [BitVec.getLsbD_append, BitVec.getLsbD_extractLsb']; simp)
  have h1 : (b1 ++ b0 : Parcel).extractLsb' 8 8 = b1 := by
    apply BitVec.eq_of_getLsbD_eq
    intro i hi
    interval_cases i <;> (simp only [BitVec.getLsbD_append, BitVec.getLsbD_extractLsb']; simp)
  rw [parcelBytes, h0, h1]

/-- The parcels of a word put together from four bytes. -/
theorem parcels_of_bytes (b3 b2 b1 b0 : Byte) :
    (RawInstr.word (b3 ++ b2 ++ b1 ++ b0)).parcels = [b1 ++ b0, b3 ++ b2] := by
  have h0 : (b3 ++ b2 ++ b1 ++ b0 : Word).extractLsb' 0 16 = b1 ++ b0 := by
    apply BitVec.eq_of_getLsbD_eq
    intro i hi
    interval_cases i <;> (simp only [BitVec.getLsbD_append, BitVec.getLsbD_extractLsb']; simp)
  have h1 : (b3 ++ b2 ++ b1 ++ b0 : Word).extractLsb' 16 16 = b3 ++ b2 := by
    apply BitVec.eq_of_getLsbD_eq
    intro i hi
    interval_cases i <;> (simp only [BitVec.getLsbD_append, BitVec.getLsbD_extractLsb']; simp)
  rw [RawInstr.parcels, h0, h1]

/-- The low two bits of a word, those of its opcode, are those of its first parcel. -/
theorem low_bits_of_word (w : Word) : (w.extractLsb' 0 16).extractLsb' 0 2 = (opcodeOf w).extractLsb' 0 2 := by
  apply BitVec.eq_of_getLsbD_eq
  intro i hi
  unfold opcodeOf
  interval_cases i <;> (simp only [BitVec.getLsbD_extractLsb']; simp)

/-- Decoding the bytes of a word whose low bits say that it is one. -/
theorem decode_word (w : Word) (rest : List Byte) (h : (opcodeOf w).extractLsb' 0 2 = 0b11#2) :
    decode (parcelsBytes (RawInstr.word w).parcels ++ rest) = (decodeWord w).followedBy rest := by
  have hc : isCompressed (w.extractLsb' 0 16) = false := by
    rw [isCompressed, low_bits_of_word, h]; rfl
  show (if isCompressed (_ ++ _) then _ else (decodeWord (_ ++ _ ++ _ ++ _)).followedBy rest) = _
  rw [bytes_of_word, bytes_of_parcel, hc]
  rfl

/-- Decoding the bytes of a 16-bit parcel. -/
theorem decode_parcel (p : Parcel) (rest : List Byte) (h : isCompressed p = true) :
    decode (parcelsBytes (RawInstr.parcel p).parcels ++ rest) = (decodeParcel p).followedBy rest := by
  simp only [RawInstr.parcels, parcelsBytes, List.flatMap_cons, List.flatMap_nil, parcelBytes, List.cons_append,
    List.nil_append, decode, bytes_of_parcel, h, if_true]

end Sys2Proof
end

