-- ==== Sys2Proof/Laws/State.lean ====
section
/-! SUPPORT. One lemma for each field of the state under each update of the model: what the update puts there, or that it
leaves the field alone. No later proof unfolds a record update. -/

namespace Sys2Proof.Machine

variable (s : State)

/-! ### `State.setX` -/

@[simp] theorem setX_pc (r : Reg) (v : Word) : (s.setX r v).pc = s.pc := by unfold State.setX; split <;> rfl
@[simp] theorem setX_priv (r : Reg) (v : Word) : (s.setX r v).priv = s.priv := by unfold State.setX; split <;> rfl
@[simp] theorem setX_mstatusMie (r : Reg) (v : Word) :
    (s.setX r v).mstatusMie = s.mstatusMie := by unfold State.setX; split <;> rfl
@[simp] theorem setX_mstatusMpie (r : Reg) (v : Word) :
    (s.setX r v).mstatusMpie = s.mstatusMpie := by unfold State.setX; split <;> rfl
@[simp] theorem setX_mtvecBase (r : Reg) (v : Word) :
    (s.setX r v).mtvecBase = s.mtvecBase := by unfold State.setX; split <;> rfl
@[simp] theorem setX_mieMeie (r : Reg) (v : Word) : (s.setX r v).mieMeie = s.mieMeie := by unfold State.setX; split <;> rfl
@[simp] theorem setX_mieMtie (r : Reg) (v : Word) : (s.setX r v).mieMtie = s.mieMtie := by unfold State.setX; split <;> rfl
@[simp] theorem setX_mscratch (r : Reg) (v : Word) : (s.setX r v).mscratch = s.mscratch := by unfold State.setX; split <;> rfl
@[simp] theorem setX_mepc (r : Reg) (v : Word) : (s.setX r v).mepc = s.mepc := by unfold State.setX; split <;> rfl
@[simp] theorem setX_mcause (r : Reg) (v : Word) : (s.setX r v).mcause = s.mcause := by unfold State.setX; split <;> rfl
@[simp] theorem setX_mcycle (r : Reg) (v : Word) : (s.setX r v).mcycle = s.mcycle := by unfold State.setX; split <;> rfl
@[simp] theorem setX_minstret (r : Reg) (v : Word) : (s.setX r v).minstret = s.minstret := by unfold State.setX; split <;> rfl
@[simp] theorem setX_pmpcfg (r : Reg) (v : Word) : (s.setX r v).pmpcfg = s.pmpcfg := by unfold State.setX; split <;> rfl
@[simp] theorem setX_pmpaddr (r : Reg) (v : Word) : (s.setX r v).pmpaddr = s.pmpaddr := by unfold State.setX; split <;> rfl
@[simp] theorem setX_extIrq (r : Reg) (v : Word) : (s.setX r v).extIrq = s.extIrq := by unfold State.setX; split <;> rfl
@[simp] theorem setX_mtime (r : Reg) (v : Word) : (s.setX r v).mtime = s.mtime := by unfold State.setX; split <;> rfl
@[simp] theorem setX_mtimecmp (r : Reg) (v : Word) : (s.setX r v).mtimecmp = s.mtimecmp := by unfold State.setX; split <;> rfl
@[simp] theorem setX_mtipLine (r : Reg) (v : Word) : (s.setX r v).mtipLine = s.mtipLine := by unfold State.setX; split <;> rfl
@[simp] theorem setX_nmiPending (r : Reg) (v : Word) :
    (s.setX r v).nmiPending = s.nmiPending := by unfold State.setX; split <;> rfl
@[simp] theorem setX_wfiStalled (r : Reg) (v : Word) :
    (s.setX r v).wfiStalled = s.wfiStalled := by unfold State.setX; split <;> rfl
@[simp] theorem setX_mem (r : Reg) (v : Word) : (s.setX r v).mem = s.mem := by unfold State.setX; split <;> rfl
@[simp] theorem setX_stored (r : Reg) (v : Word) : (s.setX r v).stored = s.stored := by unfold State.setX; split <;> rfl
@[simp] theorem setX_cfg (r : Reg) (v : Word) : (s.setX r v).cfg = s.cfg := by unfold State.setX; split <;> rfl
@[simp] theorem setX_irqDelay (r : Reg) (v : Word) : (s.setX r v).irqDelay = s.irqDelay := by unfold State.setX; split <;> rfl
@[simp] theorem setX_irqNow (r : Reg) (v : Word) : (s.setX r v).irqNow = s.irqNow := by unfold State.setX; split <;> rfl
@[simp] theorem setX_mtipDelay (r : Reg) (v : Word) :
    (s.setX r v).mtipDelay = s.mtipDelay := by unfold State.setX; split <;> rfl
@[simp] theorem setX_mtimeWait (r : Reg) (v : Word) :
    (s.setX r v).mtimeWait = s.mtimeWait := by unfold State.setX; split <;> rfl
@[simp] theorem setX_cycleHeld (r : Reg) (v : Word) :
    (s.setX r v).cycleHeld = s.cycleHeld := by unfold State.setX; split <;> rfl
@[simp] theorem setX_boundary (r : Reg) (v : Word) : (s.setX r v).boundary = s.boundary := by unfold State.setX; split <;> rfl
@[simp] theorem setX_trace (r : Reg) (v : Word) : (s.setX r v).trace = s.trace := by unfold State.setX; split <;> rfl

/-! ### `State.retireTo` -/

@[simp] theorem retireTo_gpr (a : Word) : (s.retireTo a).gpr = s.gpr := rfl
@[simp] theorem retireTo_pc (a : Word) : (s.retireTo a).pc = a := rfl
@[simp] theorem retireTo_priv (a : Word) : (s.retireTo a).priv = s.priv := rfl
@[simp] theorem retireTo_mstatusMie (a : Word) : (s.retireTo a).mstatusMie = s.mstatusMie := rfl
@[simp] theorem retireTo_mstatusMpie (a : Word) : (s.retireTo a).mstatusMpie = s.mstatusMpie := rfl
@[simp] theorem retireTo_mtvecBase (a : Word) : (s.retireTo a).mtvecBase = s.mtvecBase := rfl
@[simp] theorem retireTo_mieMeie (a : Word) : (s.retireTo a).mieMeie = s.mieMeie := rfl
@[simp] theorem retireTo_mieMtie (a : Word) : (s.retireTo a).mieMtie = s.mieMtie := rfl
@[simp] theorem retireTo_mscratch (a : Word) : (s.retireTo a).mscratch = s.mscratch := rfl
@[simp] theorem retireTo_mepc (a : Word) : (s.retireTo a).mepc = s.mepc := rfl
@[simp] theorem retireTo_mcause (a : Word) : (s.retireTo a).mcause = s.mcause := rfl
@[simp] theorem retireTo_mcycle (a : Word) : (s.retireTo a).mcycle = s.mcycle := rfl
@[simp] theorem retireTo_minstret (a : Word) : (s.retireTo a).minstret = s.minstret + 1 := rfl
@[simp] theorem retireTo_pmpcfg (a : Word) : (s.retireTo a).pmpcfg = s.pmpcfg := rfl
@[simp] theorem retireTo_pmpaddr (a : Word) : (s.retireTo a).pmpaddr = s.pmpaddr := rfl
@[simp] theorem retireTo_extIrq (a : Word) : (s.retireTo a).extIrq = s.extIrq := rfl
@[simp] theorem retireTo_mtime (a : Word) : (s.retireTo a).mtime = s.mtime := rfl
@[simp] theorem retireTo_mtimecmp (a : Word) : (s.retireTo a).mtimecmp = s.mtimecmp := rfl
@[simp] theorem retireTo_mtipLine (a : Word) : (s.retireTo a).mtipLine = s.mtipLine := rfl
@[simp] theorem retireTo_nmiPending (a : Word) : (s.retireTo a).nmiPending = s.nmiPending := rfl
@[simp] theorem retireTo_wfiStalled (a : Word) : (s.retireTo a).wfiStalled = s.wfiStalled := rfl
@[simp] theorem retireTo_mem (a : Word) : (s.retireTo a).mem = s.mem := rfl
@[simp] theorem retireTo_stored (a : Word) : (s.retireTo a).stored = s.stored := rfl
@[simp] theorem retireTo_cfg (a : Word) : (s.retireTo a).cfg = s.cfg := rfl
@[simp] theorem retireTo_irqDelay (a : Word) : (s.retireTo a).irqDelay = s.irqDelay := rfl
@[simp] theorem retireTo_irqNow (a : Word) : (s.retireTo a).irqNow = s.irqNow := rfl
@[simp] theorem retireTo_mtipDelay (a : Word) : (s.retireTo a).mtipDelay = s.mtipDelay := rfl
@[simp] theorem retireTo_mtimeWait (a : Word) : (s.retireTo a).mtimeWait = s.mtimeWait := rfl
@[simp] theorem retireTo_cycleHeld (a : Word) : (s.retireTo a).cycleHeld = s.cycleHeld := rfl
@[simp] theorem retireTo_boundary (a : Word) : (s.retireTo a).boundary = s.boundary := rfl
@[simp] theorem retireTo_trace (a : Word) : (s.retireTo a).trace = s.trace := rfl

/-! ### `State.retire` -/

@[simp] theorem retire_gpr : s.retire.gpr = s.gpr := rfl
@[simp] theorem retire_pc : s.retire.pc = s.pc + 4#32 := rfl
@[simp] theorem retire_priv : s.retire.priv = s.priv := rfl
@[simp] theorem retire_mstatusMie : s.retire.mstatusMie = s.mstatusMie := rfl
@[simp] theorem retire_mstatusMpie : s.retire.mstatusMpie = s.mstatusMpie := rfl
@[simp] theorem retire_mtvecBase : s.retire.mtvecBase = s.mtvecBase := rfl
@[simp] theorem retire_mieMeie : s.retire.mieMeie = s.mieMeie := rfl
@[simp] theorem retire_mieMtie : s.retire.mieMtie = s.mieMtie := rfl
@[simp] theorem retire_mscratch : s.retire.mscratch = s.mscratch := rfl
@[simp] theorem retire_mepc : s.retire.mepc = s.mepc := rfl
@[simp] theorem retire_mcause : s.retire.mcause = s.mcause := rfl
@[simp] theorem retire_mcycle : s.retire.mcycle = s.mcycle := rfl
@[simp] theorem retire_minstret : s.retire.minstret = s.minstret + 1 := rfl
@[simp] theorem retire_pmpcfg : s.retire.pmpcfg = s.pmpcfg := rfl
@[simp] theorem retire_pmpaddr : s.retire.pmpaddr = s.pmpaddr := rfl
@[simp] theorem retire_extIrq : s.retire.extIrq = s.extIrq := rfl
@[simp] theorem retire_mtime : s.retire.mtime = s.mtime := rfl
@[simp] theorem retire_mtimecmp : s.retire.mtimecmp = s.mtimecmp := rfl
@[simp] theorem retire_mtipLine : s.retire.mtipLine = s.mtipLine := rfl
@[simp] theorem retire_nmiPending : s.retire.nmiPending = s.nmiPending := rfl
@[simp] theorem retire_wfiStalled : s.retire.wfiStalled = s.wfiStalled := rfl
@[simp] theorem retire_mem : s.retire.mem = s.mem := rfl
@[simp] theorem retire_stored : s.retire.stored = s.stored := rfl
@[simp] theorem retire_cfg : s.retire.cfg = s.cfg := rfl
@[simp] theorem retire_irqDelay : s.retire.irqDelay = s.irqDelay := rfl
@[simp] theorem retire_irqNow : s.retire.irqNow = s.irqNow := rfl
@[simp] theorem retire_mtipDelay : s.retire.mtipDelay = s.mtipDelay := rfl
@[simp] theorem retire_mtimeWait : s.retire.mtimeWait = s.mtimeWait := rfl
@[simp] theorem retire_cycleHeld : s.retire.cycleHeld = s.cycleHeld := rfl
@[simp] theorem retire_boundary : s.retire.boundary = s.boundary := rfl
@[simp] theorem retire_trace : s.retire.trace = s.trace := rfl

/-! ### `State.trapEntry` -/

@[simp] theorem trapEntry_gpr (b : Bool) (c : BitVec 31) (epc : Word) : (s.trapEntry b c epc).gpr = s.gpr := rfl
@[simp] theorem trapEntry_pc (b : Bool) (c : BitVec 31) (epc : Word) : (s.trapEntry b c epc).pc = s.trapTarget := rfl
@[simp] theorem trapEntry_priv (b : Bool) (c : BitVec 31) (epc : Word) : (s.trapEntry b c epc).priv = .machine := rfl
@[simp] theorem trapEntry_mstatusMie (b : Bool) (c : BitVec 31) (epc : Word) : (s.trapEntry b c epc).mstatusMie = false := rfl
@[simp] theorem trapEntry_mstatusMpie (b : Bool) (c : BitVec 31) (epc : Word) :
    (s.trapEntry b c epc).mstatusMpie = s.mstatusMie := rfl
@[simp] theorem trapEntry_mtvecBase (b : Bool) (c : BitVec 31) (epc : Word) :
    (s.trapEntry b c epc).mtvecBase = s.mtvecBase := rfl
@[simp] theorem trapEntry_mieMeie (b : Bool) (c : BitVec 31) (epc : Word) : (s.trapEntry b c epc).mieMeie = s.mieMeie := rfl
@[simp] theorem trapEntry_mieMtie (b : Bool) (c : BitVec 31) (epc : Word) : (s.trapEntry b c epc).mieMtie = s.mieMtie := rfl
@[simp] theorem trapEntry_mscratch (b : Bool) (c : BitVec 31) (epc : Word) : (s.trapEntry b c epc).mscratch = s.mscratch := rfl
@[simp] theorem trapEntry_mepc (b : Bool) (c : BitVec 31) (epc : Word) : (s.trapEntry b c epc).mepc = epc := rfl
@[simp] theorem trapEntry_mcause (b : Bool) (c : BitVec 31) (epc : Word) :
    (s.trapEntry b c epc).mcause = BitVec.ofBool b ++ c := rfl
@[simp] theorem trapEntry_mcycle (b : Bool) (c : BitVec 31) (epc : Word) : (s.trapEntry b c epc).mcycle = s.mcycle := rfl
@[simp] theorem trapEntry_minstret (b : Bool) (c : BitVec 31) (epc : Word) : (s.trapEntry b c epc).minstret = s.minstret := rfl
@[simp] theorem trapEntry_pmpcfg (b : Bool) (c : BitVec 31) (epc : Word) : (s.trapEntry b c epc).pmpcfg = s.pmpcfg := rfl
@[simp] theorem trapEntry_pmpaddr (b : Bool) (c : BitVec 31) (epc : Word) : (s.trapEntry b c epc).pmpaddr = s.pmpaddr := rfl
@[simp] theorem trapEntry_extIrq (b : Bool) (c : BitVec 31) (epc : Word) : (s.trapEntry b c epc).extIrq = s.extIrq := rfl
@[simp] theorem trapEntry_mtime (b : Bool) (c : BitVec 31) (epc : Word) : (s.trapEntry b c epc).mtime = s.mtime := rfl
@[simp] theorem trapEntry_mtimecmp (b : Bool) (c : BitVec 31) (epc : Word) : (s.trapEntry b c epc).mtimecmp = s.mtimecmp := rfl
@[simp] theorem trapEntry_mtipLine (b : Bool) (c : BitVec 31) (epc : Word) : (s.trapEntry b c epc).mtipLine = s.mtipLine := rfl
@[simp] theorem trapEntry_nmiPending (b : Bool) (c : BitVec 31) (epc : Word) :
    (s.trapEntry b c epc).nmiPending = s.nmiPending := rfl
@[simp] theorem trapEntry_wfiStalled (b : Bool) (c : BitVec 31) (epc : Word) : (s.trapEntry b c epc).wfiStalled = false := rfl
@[simp] theorem trapEntry_mem (b : Bool) (c : BitVec 31) (epc : Word) : (s.trapEntry b c epc).mem = s.mem := rfl
@[simp] theorem trapEntry_stored (b : Bool) (c : BitVec 31) (epc : Word) : (s.trapEntry b c epc).stored = s.stored := rfl
@[simp] theorem trapEntry_cfg (b : Bool) (c : BitVec 31) (epc : Word) : (s.trapEntry b c epc).cfg = s.cfg := rfl
@[simp] theorem trapEntry_irqDelay (b : Bool) (c : BitVec 31) (epc : Word) : (s.trapEntry b c epc).irqDelay = s.irqDelay := rfl
@[simp] theorem trapEntry_irqNow (b : Bool) (c : BitVec 31) (epc : Word) : (s.trapEntry b c epc).irqNow = s.irqNow := rfl
@[simp] theorem trapEntry_mtipDelay (b : Bool) (c : BitVec 31) (epc : Word) :
    (s.trapEntry b c epc).mtipDelay = s.mtipDelay := rfl
@[simp] theorem trapEntry_mtimeWait (b : Bool) (c : BitVec 31) (epc : Word) :
    (s.trapEntry b c epc).mtimeWait = s.mtimeWait := rfl
@[simp] theorem trapEntry_cycleHeld (b : Bool) (c : BitVec 31) (epc : Word) :
    (s.trapEntry b c epc).cycleHeld = s.cycleHeld := rfl
@[simp] theorem trapEntry_boundary (b : Bool) (c : BitVec 31) (epc : Word) : (s.trapEntry b c epc).boundary = s.boundary := rfl
@[simp] theorem trapEntry_trace (b : Bool) (c : BitVec 31) (epc : Word) : (s.trapEntry b c epc).trace = s.trace := rfl

/-! ### `State.raise` -/

@[simp] theorem raise_gpr (e : Exception) : (s.raise e).gpr = s.gpr := rfl
@[simp] theorem raise_pc (e : Exception) : (s.raise e).pc = s.trapTarget := rfl
@[simp] theorem raise_priv (e : Exception) : (s.raise e).priv = .machine := rfl
@[simp] theorem raise_mstatusMie (e : Exception) : (s.raise e).mstatusMie = false := rfl
@[simp] theorem raise_mstatusMpie (e : Exception) : (s.raise e).mstatusMpie = s.mstatusMie := rfl
@[simp] theorem raise_mtvecBase (e : Exception) : (s.raise e).mtvecBase = s.mtvecBase := rfl
@[simp] theorem raise_mieMeie (e : Exception) : (s.raise e).mieMeie = s.mieMeie := rfl
@[simp] theorem raise_mieMtie (e : Exception) : (s.raise e).mieMtie = s.mieMtie := rfl
@[simp] theorem raise_mscratch (e : Exception) : (s.raise e).mscratch = s.mscratch := rfl
@[simp] theorem raise_mepc (e : Exception) : (s.raise e).mepc = s.pc := rfl
@[simp] theorem raise_mcause (e : Exception) : (s.raise e).mcause = BitVec.ofBool false ++ e.code := rfl
@[simp] theorem raise_mcycle (e : Exception) : (s.raise e).mcycle = s.mcycle := rfl
@[simp] theorem raise_minstret (e : Exception) : (s.raise e).minstret = s.minstret := rfl
@[simp] theorem raise_pmpcfg (e : Exception) : (s.raise e).pmpcfg = s.pmpcfg := rfl
@[simp] theorem raise_pmpaddr (e : Exception) : (s.raise e).pmpaddr = s.pmpaddr := rfl
@[simp] theorem raise_extIrq (e : Exception) : (s.raise e).extIrq = s.extIrq := rfl
@[simp] theorem raise_mtime (e : Exception) : (s.raise e).mtime = s.mtime := rfl
@[simp] theorem raise_mtimecmp (e : Exception) : (s.raise e).mtimecmp = s.mtimecmp := rfl
@[simp] theorem raise_mtipLine (e : Exception) : (s.raise e).mtipLine = s.mtipLine := rfl
@[simp] theorem raise_nmiPending (e : Exception) : (s.raise e).nmiPending = s.nmiPending := rfl
@[simp] theorem raise_wfiStalled (e : Exception) : (s.raise e).wfiStalled = false := rfl
@[simp] theorem raise_mem (e : Exception) : (s.raise e).mem = s.mem := rfl
@[simp] theorem raise_stored (e : Exception) : (s.raise e).stored = s.stored := rfl
@[simp] theorem raise_cfg (e : Exception) : (s.raise e).cfg = s.cfg := rfl
@[simp] theorem raise_irqDelay (e : Exception) : (s.raise e).irqDelay = s.irqDelay := rfl
@[simp] theorem raise_irqNow (e : Exception) : (s.raise e).irqNow = s.irqNow := rfl
@[simp] theorem raise_mtipDelay (e : Exception) : (s.raise e).mtipDelay = s.mtipDelay := rfl
@[simp] theorem raise_mtimeWait (e : Exception) : (s.raise e).mtimeWait = s.mtimeWait := rfl
@[simp] theorem raise_cycleHeld (e : Exception) : (s.raise e).cycleHeld = s.cycleHeld := rfl
@[simp] theorem raise_boundary (e : Exception) : (s.raise e).boundary = s.boundary := rfl
@[simp] theorem raise_trace (e : Exception) : (s.raise e).trace = s.trace := rfl

/-! ### `State.interruptEntry` -/

@[simp] theorem interruptEntry_gpr (i : Interrupt) : (s.interruptEntry i).gpr = s.gpr := rfl
@[simp] theorem interruptEntry_pc (i : Interrupt) : (s.interruptEntry i).pc = s.trapTarget := rfl
@[simp] theorem interruptEntry_priv (i : Interrupt) : (s.interruptEntry i).priv = .machine := rfl
@[simp] theorem interruptEntry_mstatusMie (i : Interrupt) : (s.interruptEntry i).mstatusMie = false := rfl
@[simp] theorem interruptEntry_mstatusMpie (i : Interrupt) : (s.interruptEntry i).mstatusMpie = s.mstatusMie := rfl
@[simp] theorem interruptEntry_mtvecBase (i : Interrupt) : (s.interruptEntry i).mtvecBase = s.mtvecBase := rfl
@[simp] theorem interruptEntry_mieMeie (i : Interrupt) : (s.interruptEntry i).mieMeie = s.mieMeie := rfl
@[simp] theorem interruptEntry_mieMtie (i : Interrupt) : (s.interruptEntry i).mieMtie = s.mieMtie := rfl
@[simp] theorem interruptEntry_mscratch (i : Interrupt) : (s.interruptEntry i).mscratch = s.mscratch := rfl
@[simp] theorem interruptEntry_mepc (i : Interrupt) : (s.interruptEntry i).mepc = s.pc := rfl
@[simp] theorem interruptEntry_mcause (i : Interrupt) : (s.interruptEntry i).mcause = BitVec.ofBool true ++ i.code := rfl
@[simp] theorem interruptEntry_mcycle (i : Interrupt) : (s.interruptEntry i).mcycle = s.mcycle := rfl
@[simp] theorem interruptEntry_minstret (i : Interrupt) : (s.interruptEntry i).minstret = s.minstret := rfl
@[simp] theorem interruptEntry_pmpcfg (i : Interrupt) : (s.interruptEntry i).pmpcfg = s.pmpcfg := rfl
@[simp] theorem interruptEntry_pmpaddr (i : Interrupt) : (s.interruptEntry i).pmpaddr = s.pmpaddr := rfl
@[simp] theorem interruptEntry_extIrq (i : Interrupt) : (s.interruptEntry i).extIrq = s.extIrq := rfl
@[simp] theorem interruptEntry_mtime (i : Interrupt) : (s.interruptEntry i).mtime = s.mtime := rfl
@[simp] theorem interruptEntry_mtimecmp (i : Interrupt) : (s.interruptEntry i).mtimecmp = s.mtimecmp := rfl
@[simp] theorem interruptEntry_mtipLine (i : Interrupt) : (s.interruptEntry i).mtipLine = s.mtipLine := rfl
@[simp] theorem interruptEntry_nmiPending (i : Interrupt) : (s.interruptEntry i).nmiPending = s.nmiPending := rfl
@[simp] theorem interruptEntry_wfiStalled (i : Interrupt) : (s.interruptEntry i).wfiStalled = false := rfl
@[simp] theorem interruptEntry_mem (i : Interrupt) : (s.interruptEntry i).mem = s.mem := rfl
@[simp] theorem interruptEntry_stored (i : Interrupt) : (s.interruptEntry i).stored = s.stored := rfl
@[simp] theorem interruptEntry_cfg (i : Interrupt) : (s.interruptEntry i).cfg = s.cfg := rfl
@[simp] theorem interruptEntry_irqDelay (i : Interrupt) : (s.interruptEntry i).irqDelay = s.irqDelay := rfl
@[simp] theorem interruptEntry_irqNow (i : Interrupt) : (s.interruptEntry i).irqNow = s.irqNow := rfl
@[simp] theorem interruptEntry_mtipDelay (i : Interrupt) : (s.interruptEntry i).mtipDelay = s.mtipDelay := rfl
@[simp] theorem interruptEntry_mtimeWait (i : Interrupt) : (s.interruptEntry i).mtimeWait = s.mtimeWait := rfl
@[simp] theorem interruptEntry_cycleHeld (i : Interrupt) : (s.interruptEntry i).cycleHeld = s.cycleHeld := rfl
@[simp] theorem interruptEntry_boundary (i : Interrupt) : (s.interruptEntry i).boundary = s.boundary := rfl
@[simp] theorem interruptEntry_trace (i : Interrupt) : (s.interruptEntry i).trace = s.trace := rfl

/-! ### `State.nmiEntry` -/

@[simp] theorem nmiEntry_gpr (v : Word) : (s.nmiEntry v).gpr = s.gpr := rfl
@[simp] theorem nmiEntry_pc (v : Word) : (s.nmiEntry v).pc = v := rfl
@[simp] theorem nmiEntry_priv (v : Word) : (s.nmiEntry v).priv = .machine := rfl
@[simp] theorem nmiEntry_mstatusMie (v : Word) : (s.nmiEntry v).mstatusMie = s.drawNow.nmiMie := rfl
@[simp] theorem nmiEntry_mstatusMpie (v : Word) : (s.nmiEntry v).mstatusMpie = s.drawNow.nmiMpie := rfl
@[simp] theorem nmiEntry_mtvecBase (v : Word) : (s.nmiEntry v).mtvecBase = s.mtvecBase := rfl
@[simp] theorem nmiEntry_mieMeie (v : Word) : (s.nmiEntry v).mieMeie = s.mieMeie := rfl
@[simp] theorem nmiEntry_mieMtie (v : Word) : (s.nmiEntry v).mieMtie = s.mieMtie := rfl
@[simp] theorem nmiEntry_mscratch (v : Word) : (s.nmiEntry v).mscratch = s.mscratch := rfl
@[simp] theorem nmiEntry_mepc (v : Word) : (s.nmiEntry v).mepc = s.pc := rfl
@[simp] theorem nmiEntry_mcause (v : Word) : (s.nmiEntry v).mcause = 0x80000000#32 := rfl
@[simp] theorem nmiEntry_mcycle (v : Word) : (s.nmiEntry v).mcycle = s.mcycle := rfl
@[simp] theorem nmiEntry_minstret (v : Word) : (s.nmiEntry v).minstret = s.minstret := rfl
@[simp] theorem nmiEntry_pmpcfg (v : Word) : (s.nmiEntry v).pmpcfg = s.pmpcfg := rfl
@[simp] theorem nmiEntry_pmpaddr (v : Word) : (s.nmiEntry v).pmpaddr = s.pmpaddr := rfl
@[simp] theorem nmiEntry_extIrq (v : Word) : (s.nmiEntry v).extIrq = s.extIrq := rfl
@[simp] theorem nmiEntry_mtime (v : Word) : (s.nmiEntry v).mtime = s.mtime := rfl
@[simp] theorem nmiEntry_mtimecmp (v : Word) : (s.nmiEntry v).mtimecmp = s.mtimecmp := rfl
@[simp] theorem nmiEntry_mtipLine (v : Word) : (s.nmiEntry v).mtipLine = s.mtipLine := rfl
@[simp] theorem nmiEntry_nmiPending (v : Word) : (s.nmiEntry v).nmiPending = s.nmiPending := rfl
@[simp] theorem nmiEntry_wfiStalled (v : Word) : (s.nmiEntry v).wfiStalled = false := rfl
@[simp] theorem nmiEntry_mem (v : Word) : (s.nmiEntry v).mem = s.mem := rfl
@[simp] theorem nmiEntry_stored (v : Word) : (s.nmiEntry v).stored = s.stored := rfl
@[simp] theorem nmiEntry_cfg (v : Word) : (s.nmiEntry v).cfg = s.cfg := rfl
@[simp] theorem nmiEntry_irqDelay (v : Word) : (s.nmiEntry v).irqDelay = s.drawNow.irqDelay := rfl
@[simp] theorem nmiEntry_irqNow (v : Word) : (s.nmiEntry v).irqNow = false := rfl
@[simp] theorem nmiEntry_mtipDelay (v : Word) : (s.nmiEntry v).mtipDelay = s.mtipDelay := rfl
@[simp] theorem nmiEntry_mtimeWait (v : Word) : (s.nmiEntry v).mtimeWait = s.mtimeWait := rfl
@[simp] theorem nmiEntry_cycleHeld (v : Word) : (s.nmiEntry v).cycleHeld = s.cycleHeld := rfl
@[simp] theorem nmiEntry_boundary (v : Word) : (s.nmiEntry v).boundary = s.boundary := rfl
@[simp] theorem nmiEntry_trace (v : Word) : (s.nmiEntry v).trace = s.trace := rfl

/-! ### `State.trapReturn` -/

@[simp] theorem trapReturn_gpr : s.trapReturn.gpr = s.gpr := rfl
@[simp] theorem trapReturn_pc : s.trapReturn.pc = s.mepc := rfl
@[simp] theorem trapReturn_priv : s.trapReturn.priv = s.priv := rfl
@[simp] theorem trapReturn_mstatusMie : s.trapReturn.mstatusMie = s.mstatusMpie := rfl
@[simp] theorem trapReturn_mstatusMpie : s.trapReturn.mstatusMpie = true := rfl
@[simp] theorem trapReturn_mtvecBase : s.trapReturn.mtvecBase = s.mtvecBase := rfl
@[simp] theorem trapReturn_mieMeie : s.trapReturn.mieMeie = s.mieMeie := rfl
@[simp] theorem trapReturn_mieMtie : s.trapReturn.mieMtie = s.mieMtie := rfl
@[simp] theorem trapReturn_mscratch : s.trapReturn.mscratch = s.mscratch := rfl
@[simp] theorem trapReturn_mepc : s.trapReturn.mepc = s.mepc := rfl
@[simp] theorem trapReturn_mcause : s.trapReturn.mcause = s.mcause := rfl
@[simp] theorem trapReturn_mcycle : s.trapReturn.mcycle = s.mcycle := rfl
@[simp] theorem trapReturn_minstret : s.trapReturn.minstret = s.minstret + 1 := rfl
@[simp] theorem trapReturn_pmpcfg : s.trapReturn.pmpcfg = s.pmpcfg := rfl
@[simp] theorem trapReturn_pmpaddr : s.trapReturn.pmpaddr = s.pmpaddr := rfl
@[simp] theorem trapReturn_extIrq : s.trapReturn.extIrq = s.extIrq := rfl
@[simp] theorem trapReturn_mtime : s.trapReturn.mtime = s.mtime := rfl
@[simp] theorem trapReturn_mtimecmp : s.trapReturn.mtimecmp = s.mtimecmp := rfl
@[simp] theorem trapReturn_mtipLine : s.trapReturn.mtipLine = s.mtipLine := rfl
@[simp] theorem trapReturn_nmiPending : s.trapReturn.nmiPending = s.nmiPending := rfl
@[simp] theorem trapReturn_wfiStalled : s.trapReturn.wfiStalled = s.wfiStalled := rfl
@[simp] theorem trapReturn_mem : s.trapReturn.mem = s.mem := rfl
@[simp] theorem trapReturn_stored : s.trapReturn.stored = s.stored := rfl
@[simp] theorem trapReturn_cfg : s.trapReturn.cfg = s.cfg := rfl
@[simp] theorem trapReturn_irqDelay : s.trapReturn.irqDelay = s.irqDelay := rfl
@[simp] theorem trapReturn_irqNow : s.trapReturn.irqNow = true := rfl
@[simp] theorem trapReturn_mtipDelay : s.trapReturn.mtipDelay = s.mtipDelay := rfl
@[simp] theorem trapReturn_mtimeWait : s.trapReturn.mtimeWait = s.mtimeWait := rfl
@[simp] theorem trapReturn_cycleHeld : s.trapReturn.cycleHeld = s.cycleHeld := rfl
@[simp] theorem trapReturn_boundary : s.trapReturn.boundary = s.boundary := rfl
@[simp] theorem trapReturn_trace : s.trapReturn.trace = s.trace := rfl

/-! ### `State.wfiComplete` -/

@[simp] theorem wfiComplete_gpr : s.wfiComplete.gpr = s.gpr := rfl
@[simp] theorem wfiComplete_pc : s.wfiComplete.pc = s.pc + 4#32 := rfl
@[simp] theorem wfiComplete_priv : s.wfiComplete.priv = s.priv := rfl
@[simp] theorem wfiComplete_mstatusMie : s.wfiComplete.mstatusMie = s.mstatusMie := rfl
@[simp] theorem wfiComplete_mstatusMpie : s.wfiComplete.mstatusMpie = s.mstatusMpie := rfl
@[simp] theorem wfiComplete_mtvecBase : s.wfiComplete.mtvecBase = s.mtvecBase := rfl
@[simp] theorem wfiComplete_mieMeie : s.wfiComplete.mieMeie = s.mieMeie := rfl
@[simp] theorem wfiComplete_mieMtie : s.wfiComplete.mieMtie = s.mieMtie := rfl
@[simp] theorem wfiComplete_mscratch : s.wfiComplete.mscratch = s.mscratch := rfl
@[simp] theorem wfiComplete_mepc : s.wfiComplete.mepc = s.mepc := rfl
@[simp] theorem wfiComplete_mcause : s.wfiComplete.mcause = s.mcause := rfl
@[simp] theorem wfiComplete_mcycle : s.wfiComplete.mcycle = s.mcycle := rfl
@[simp] theorem wfiComplete_minstret : s.wfiComplete.minstret = s.minstret + 1 := rfl
@[simp] theorem wfiComplete_pmpcfg : s.wfiComplete.pmpcfg = s.pmpcfg := rfl
@[simp] theorem wfiComplete_pmpaddr : s.wfiComplete.pmpaddr = s.pmpaddr := rfl
@[simp] theorem wfiComplete_extIrq : s.wfiComplete.extIrq = s.extIrq := rfl
@[simp] theorem wfiComplete_mtime : s.wfiComplete.mtime = s.mtime := rfl
@[simp] theorem wfiComplete_mtimecmp : s.wfiComplete.mtimecmp = s.mtimecmp := rfl
@[simp] theorem wfiComplete_mtipLine : s.wfiComplete.mtipLine = s.mtipLine := rfl
@[simp] theorem wfiComplete_nmiPending : s.wfiComplete.nmiPending = s.nmiPending := rfl
@[simp] theorem wfiComplete_wfiStalled : s.wfiComplete.wfiStalled = false := rfl
@[simp] theorem wfiComplete_mem : s.wfiComplete.mem = s.mem := rfl
@[simp] theorem wfiComplete_stored : s.wfiComplete.stored = s.stored := rfl
@[simp] theorem wfiComplete_cfg : s.wfiComplete.cfg = s.cfg := rfl
@[simp] theorem wfiComplete_irqDelay : s.wfiComplete.irqDelay = 0 := rfl
@[simp] theorem wfiComplete_irqNow : s.wfiComplete.irqNow = true := rfl
@[simp] theorem wfiComplete_mtipDelay : s.wfiComplete.mtipDelay = s.mtipDelay := rfl
@[simp] theorem wfiComplete_mtimeWait : s.wfiComplete.mtimeWait = s.mtimeWait := rfl
@[simp] theorem wfiComplete_cycleHeld : s.wfiComplete.cycleHeld = s.cycleHeld := rfl
@[simp] theorem wfiComplete_boundary : s.wfiComplete.boundary = s.boundary := rfl
@[simp] theorem wfiComplete_trace : s.wfiComplete.trace = s.trace := rfl

/-! ### `State.storeRamWord` -/

@[simp] theorem storeRamWord_gpr (a v : Word) : (s.storeRamWord a v).gpr = s.gpr := rfl
@[simp] theorem storeRamWord_pc (a v : Word) : (s.storeRamWord a v).pc = s.pc := rfl
@[simp] theorem storeRamWord_priv (a v : Word) : (s.storeRamWord a v).priv = s.priv := rfl
@[simp] theorem storeRamWord_mstatusMie (a v : Word) : (s.storeRamWord a v).mstatusMie = s.mstatusMie := rfl
@[simp] theorem storeRamWord_mstatusMpie (a v : Word) : (s.storeRamWord a v).mstatusMpie = s.mstatusMpie := rfl
@[simp] theorem storeRamWord_mtvecBase (a v : Word) : (s.storeRamWord a v).mtvecBase = s.mtvecBase := rfl
@[simp] theorem storeRamWord_mieMeie (a v : Word) : (s.storeRamWord a v).mieMeie = s.mieMeie := rfl
@[simp] theorem storeRamWord_mieMtie (a v : Word) : (s.storeRamWord a v).mieMtie = s.mieMtie := rfl
@[simp] theorem storeRamWord_mscratch (a v : Word) : (s.storeRamWord a v).mscratch = s.mscratch := rfl
@[simp] theorem storeRamWord_mepc (a v : Word) : (s.storeRamWord a v).mepc = s.mepc := rfl
@[simp] theorem storeRamWord_mcause (a v : Word) : (s.storeRamWord a v).mcause = s.mcause := rfl
@[simp] theorem storeRamWord_mcycle (a v : Word) : (s.storeRamWord a v).mcycle = s.mcycle := rfl
@[simp] theorem storeRamWord_minstret (a v : Word) : (s.storeRamWord a v).minstret = s.minstret := rfl
@[simp] theorem storeRamWord_pmpcfg (a v : Word) : (s.storeRamWord a v).pmpcfg = s.pmpcfg := rfl
@[simp] theorem storeRamWord_pmpaddr (a v : Word) : (s.storeRamWord a v).pmpaddr = s.pmpaddr := rfl
@[simp] theorem storeRamWord_extIrq (a v : Word) : (s.storeRamWord a v).extIrq = s.extIrq := rfl
@[simp] theorem storeRamWord_mtime (a v : Word) : (s.storeRamWord a v).mtime = s.mtime := rfl
@[simp] theorem storeRamWord_mtimecmp (a v : Word) : (s.storeRamWord a v).mtimecmp = s.mtimecmp := rfl
@[simp] theorem storeRamWord_mtipLine (a v : Word) : (s.storeRamWord a v).mtipLine = s.mtipLine := rfl
@[simp] theorem storeRamWord_nmiPending (a v : Word) : (s.storeRamWord a v).nmiPending = s.nmiPending := rfl
@[simp] theorem storeRamWord_wfiStalled (a v : Word) : (s.storeRamWord a v).wfiStalled = s.wfiStalled := rfl
@[simp] theorem storeRamWord_mem (a v : Word) : (s.storeRamWord a v).mem = s.mem.writeWord a v := rfl
@[simp] theorem storeRamWord_stored (a v : Word) : (s.storeRamWord a v).stored = markWord s.stored a := rfl
@[simp] theorem storeRamWord_cfg (a v : Word) : (s.storeRamWord a v).cfg = s.cfg := rfl
@[simp] theorem storeRamWord_irqDelay (a v : Word) : (s.storeRamWord a v).irqDelay = s.irqDelay := rfl
@[simp] theorem storeRamWord_irqNow (a v : Word) : (s.storeRamWord a v).irqNow = s.irqNow := rfl
@[simp] theorem storeRamWord_mtipDelay (a v : Word) : (s.storeRamWord a v).mtipDelay = s.mtipDelay := rfl
@[simp] theorem storeRamWord_mtimeWait (a v : Word) : (s.storeRamWord a v).mtimeWait = s.mtimeWait := rfl
@[simp] theorem storeRamWord_cycleHeld (a v : Word) : (s.storeRamWord a v).cycleHeld = s.cycleHeld := rfl
@[simp] theorem storeRamWord_boundary (a v : Word) : (s.storeRamWord a v).boundary = s.boundary := rfl
@[simp] theorem storeRamWord_trace (a v : Word) : (s.storeRamWord a v).trace = s.trace := rfl

/-! ### `State.writeWord` -/

@[simp] theorem writeWord_gpr (a v : Word) : (s.writeWord a v).gpr = s.gpr := by unfold State.writeWord; split <;> rfl
@[simp] theorem writeWord_pc (a v : Word) : (s.writeWord a v).pc = s.pc := by unfold State.writeWord; split <;> rfl
@[simp] theorem writeWord_priv (a v : Word) : (s.writeWord a v).priv = s.priv := by unfold State.writeWord; split <;> rfl
@[simp] theorem writeWord_mstatusMie (a v : Word) :
    (s.writeWord a v).mstatusMie = s.mstatusMie := by unfold State.writeWord; split <;> rfl
@[simp] theorem writeWord_mstatusMpie (a v : Word) :
    (s.writeWord a v).mstatusMpie = s.mstatusMpie := by unfold State.writeWord; split <;> rfl
@[simp] theorem writeWord_mtvecBase (a v : Word) :
    (s.writeWord a v).mtvecBase = s.mtvecBase := by unfold State.writeWord; split <;> rfl
@[simp] theorem writeWord_mieMeie (a v : Word) :
    (s.writeWord a v).mieMeie = s.mieMeie := by unfold State.writeWord; split <;> rfl
@[simp] theorem writeWord_mieMtie (a v : Word) :
    (s.writeWord a v).mieMtie = s.mieMtie := by unfold State.writeWord; split <;> rfl
@[simp] theorem writeWord_mscratch (a v : Word) :
    (s.writeWord a v).mscratch = s.mscratch := by unfold State.writeWord; split <;> rfl
@[simp] theorem writeWord_mepc (a v : Word) : (s.writeWord a v).mepc = s.mepc := by unfold State.writeWord; split <;> rfl
@[simp] theorem writeWord_mcause (a v : Word) : (s.writeWord a v).mcause = s.mcause := by unfold State.writeWord; split <;> rfl
@[simp] theorem writeWord_mcycle (a v : Word) : (s.writeWord a v).mcycle = s.mcycle := by unfold State.writeWord; split <;> rfl
@[simp] theorem writeWord_minstret (a v : Word) :
    (s.writeWord a v).minstret = s.minstret := by unfold State.writeWord; split <;> rfl
@[simp] theorem writeWord_pmpcfg (a v : Word) : (s.writeWord a v).pmpcfg = s.pmpcfg := by unfold State.writeWord; split <;> rfl
@[simp] theorem writeWord_pmpaddr (a v : Word) :
    (s.writeWord a v).pmpaddr = s.pmpaddr := by unfold State.writeWord; split <;> rfl
@[simp] theorem writeWord_extIrq (a v : Word) : (s.writeWord a v).extIrq = s.extIrq := by unfold State.writeWord; split <;> rfl
@[simp] theorem writeWord_mtipLine (a v : Word) :
    (s.writeWord a v).mtipLine = s.mtipLine := by unfold State.writeWord; split <;> rfl
@[simp] theorem writeWord_nmiPending (a v : Word) :
    (s.writeWord a v).nmiPending = s.nmiPending := by unfold State.writeWord; split <;> rfl
@[simp] theorem writeWord_wfiStalled (a v : Word) :
    (s.writeWord a v).wfiStalled = s.wfiStalled := by unfold State.writeWord; split <;> rfl
@[simp] theorem writeWord_cfg (a v : Word) : (s.writeWord a v).cfg = s.cfg := by unfold State.writeWord; split <;> rfl
@[simp] theorem writeWord_irqDelay (a v : Word) :
    (s.writeWord a v).irqDelay = s.irqDelay := by unfold State.writeWord; split <;> rfl
@[simp] theorem writeWord_irqNow (a v : Word) : (s.writeWord a v).irqNow = s.irqNow := by unfold State.writeWord; split <;> rfl
@[simp] theorem writeWord_mtipDelay (a v : Word) :
    (s.writeWord a v).mtipDelay = s.mtipDelay := by unfold State.writeWord; split <;> rfl
@[simp] theorem writeWord_mtimeWait (a v : Word) :
    (s.writeWord a v).mtimeWait = s.mtimeWait := by unfold State.writeWord; split <;> rfl
@[simp] theorem writeWord_cycleHeld (a v : Word) :
    (s.writeWord a v).cycleHeld = s.cycleHeld := by unfold State.writeWord; split <;> rfl
@[simp] theorem writeWord_boundary (a v : Word) :
    (s.writeWord a v).boundary = s.boundary := by unfold State.writeWord; split <;> rfl
@[simp] theorem writeWord_trace (a v : Word) : (s.writeWord a v).trace = s.trace := by unfold State.writeWord; split <;> rfl

/-! ### `State.csrWrite` -/

theorem writePmpaddr_shape (n : Nat) (h : n < 8) (v : Word) :
    s.writePmpaddr n h v = { s with pmpaddr := (s.writePmpaddr n h v).pmpaddr } := by
  unfold State.writePmpaddr; split <;> rfl

/-- A CSR write changes CSR fields only: every other field is that of `s`. -/
theorem csrWrite_shape (c : Csr) (v : Word) : s.csrWrite c v =
    { s with
      mstatusMie := (s.csrWrite c v).mstatusMie
      mstatusMpie := (s.csrWrite c v).mstatusMpie
      mieMeie := (s.csrWrite c v).mieMeie
      mieMtie := (s.csrWrite c v).mieMtie
      mtvecBase := (s.csrWrite c v).mtvecBase
      mscratch := (s.csrWrite c v).mscratch
      mepc := (s.csrWrite c v).mepc
      mcause := (s.csrWrite c v).mcause
      pmpcfg := (s.csrWrite c v).pmpcfg
      pmpaddr := (s.csrWrite c v).pmpaddr
      mcycle := (s.csrWrite c v).mcycle
      minstret := (s.csrWrite c v).minstret
      cycleHeld := (s.csrWrite c v).cycleHeld } := by
  cases c
  case pmpcfg n => simp only [State.csrWrite]; split <;> rfl
  case pmpaddr n =>
    simp only [State.csrWrite]
    split
    · rw [writePmpaddr_shape]
    · rfl
  all_goals rfl

@[simp] theorem csrWrite_gpr (c : Csr) (v : Word) :
    (s.csrWrite c v).gpr = s.gpr := by have h := congrArg State.gpr (csrWrite_shape s c v); exact h
@[simp] theorem csrWrite_pc (c : Csr) (v : Word) :
    (s.csrWrite c v).pc = s.pc := by have h := congrArg State.pc (csrWrite_shape s c v); exact h
@[simp] theorem csrWrite_priv (c : Csr) (v : Word) :
    (s.csrWrite c v).priv = s.priv := by have h := congrArg State.priv (csrWrite_shape s c v); exact h
@[simp] theorem csrWrite_extIrq (c : Csr) (v : Word) :
    (s.csrWrite c v).extIrq = s.extIrq := by have h := congrArg State.extIrq (csrWrite_shape s c v); exact h
@[simp] theorem csrWrite_mtime (c : Csr) (v : Word) :
    (s.csrWrite c v).mtime = s.mtime := by have h := congrArg State.mtime (csrWrite_shape s c v); exact h
@[simp] theorem csrWrite_mtimecmp (c : Csr) (v : Word) :
    (s.csrWrite c v).mtimecmp = s.mtimecmp := by have h := congrArg State.mtimecmp (csrWrite_shape s c v); exact h
@[simp] theorem csrWrite_mtipLine (c : Csr) (v : Word) :
    (s.csrWrite c v).mtipLine = s.mtipLine := by have h := congrArg State.mtipLine (csrWrite_shape s c v); exact h
@[simp] theorem csrWrite_nmiPending (c : Csr) (v : Word) :
    (s.csrWrite c v).nmiPending = s.nmiPending := by have h := congrArg State.nmiPending (csrWrite_shape s c v); exact h
@[simp] theorem csrWrite_wfiStalled (c : Csr) (v : Word) :
    (s.csrWrite c v).wfiStalled = s.wfiStalled := by have h := congrArg State.wfiStalled (csrWrite_shape s c v); exact h
@[simp] theorem csrWrite_mem (c : Csr) (v : Word) :
    (s.csrWrite c v).mem = s.mem := by have h := congrArg State.mem (csrWrite_shape s c v); exact h
@[simp] theorem csrWrite_stored (c : Csr) (v : Word) :
    (s.csrWrite c v).stored = s.stored := by have h := congrArg State.stored (csrWrite_shape s c v); exact h
@[simp] theorem csrWrite_cfg (c : Csr) (v : Word) :
    (s.csrWrite c v).cfg = s.cfg := by have h := congrArg State.cfg (csrWrite_shape s c v); exact h
@[simp] theorem csrWrite_irqDelay (c : Csr) (v : Word) :
    (s.csrWrite c v).irqDelay = s.irqDelay := by have h := congrArg State.irqDelay (csrWrite_shape s c v); exact h
@[simp] theorem csrWrite_irqNow (c : Csr) (v : Word) :
    (s.csrWrite c v).irqNow = s.irqNow := by have h := congrArg State.irqNow (csrWrite_shape s c v); exact h
@[simp] theorem csrWrite_mtipDelay (c : Csr) (v : Word) :
    (s.csrWrite c v).mtipDelay = s.mtipDelay := by have h := congrArg State.mtipDelay (csrWrite_shape s c v); exact h
@[simp] theorem csrWrite_mtimeWait (c : Csr) (v : Word) :
    (s.csrWrite c v).mtimeWait = s.mtimeWait := by have h := congrArg State.mtimeWait (csrWrite_shape s c v); exact h
@[simp] theorem csrWrite_boundary (c : Csr) (v : Word) :
    (s.csrWrite c v).boundary = s.boundary := by have h := congrArg State.boundary (csrWrite_shape s c v); exact h
@[simp] theorem csrWrite_trace (c : Csr) (v : Word) :
    (s.csrWrite c v).trace = s.trace := by have h := congrArg State.trace (csrWrite_shape s c v); exact h

/-! ### `State.csrCommit` -/

theorem csrCommit_shape (c : Csr) (w : Bool) (v : Word) : s.csrCommit c w v =
    { s with
      mstatusMie := (s.csrCommit c w v).mstatusMie
      mstatusMpie := (s.csrCommit c w v).mstatusMpie
      mieMeie := (s.csrCommit c w v).mieMeie
      mieMtie := (s.csrCommit c w v).mieMtie
      mtvecBase := (s.csrCommit c w v).mtvecBase
      mscratch := (s.csrCommit c w v).mscratch
      mepc := (s.csrCommit c w v).mepc
      mcause := (s.csrCommit c w v).mcause
      pmpcfg := (s.csrCommit c w v).pmpcfg
      pmpaddr := (s.csrCommit c w v).pmpaddr
      mcycle := (s.csrCommit c w v).mcycle
      minstret := (s.csrCommit c w v).minstret
      cycleHeld := (s.csrCommit c w v).cycleHeld
      irqNow := (s.csrCommit c w v).irqNow } := by
  cases w
  · rfl
  · simp only [State.csrCommit, if_true]
    rw [csrWrite_shape]

@[simp] theorem csrCommit_gpr (c : Csr) (w : Bool) (v : Word) :
    (s.csrCommit c w v).gpr = s.gpr := by have h := congrArg State.gpr (csrCommit_shape s c w v); exact h
@[simp] theorem csrCommit_pc (c : Csr) (w : Bool) (v : Word) :
    (s.csrCommit c w v).pc = s.pc := by have h := congrArg State.pc (csrCommit_shape s c w v); exact h
@[simp] theorem csrCommit_priv (c : Csr) (w : Bool) (v : Word) :
    (s.csrCommit c w v).priv = s.priv := by have h := congrArg State.priv (csrCommit_shape s c w v); exact h
@[simp] theorem csrCommit_extIrq (c : Csr) (w : Bool) (v : Word) :
    (s.csrCommit c w v).extIrq = s.extIrq := by have h := congrArg State.extIrq (csrCommit_shape s c w v); exact h
@[simp] theorem csrCommit_mtime (c : Csr) (w : Bool) (v : Word) :
    (s.csrCommit c w v).mtime = s.mtime := by have h := congrArg State.mtime (csrCommit_shape s c w v); exact h
@[simp] theorem csrCommit_mtimecmp (c : Csr) (w : Bool) (v : Word) :
    (s.csrCommit c w v).mtimecmp = s.mtimecmp := by have h := congrArg State.mtimecmp (csrCommit_shape s c w v); exact h
@[simp] theorem csrCommit_mtipLine (c : Csr) (w : Bool) (v : Word) :
    (s.csrCommit c w v).mtipLine = s.mtipLine := by have h := congrArg State.mtipLine (csrCommit_shape s c w v); exact h
@[simp] theorem csrCommit_nmiPending (c : Csr) (w : Bool) (v : Word) :
    (s.csrCommit c w v).nmiPending = s.nmiPending := by have h := congrArg State.nmiPending (csrCommit_shape s c w v); exact h
@[simp] theorem csrCommit_wfiStalled (c : Csr) (w : Bool) (v : Word) :
    (s.csrCommit c w v).wfiStalled = s.wfiStalled := by have h := congrArg State.wfiStalled (csrCommit_shape s c w v); exact h
@[simp] theorem csrCommit_mem (c : Csr) (w : Bool) (v : Word) :
    (s.csrCommit c w v).mem = s.mem := by have h := congrArg State.mem (csrCommit_shape s c w v); exact h
@[simp] theorem csrCommit_stored (c : Csr) (w : Bool) (v : Word) :
    (s.csrCommit c w v).stored = s.stored := by have h := congrArg State.stored (csrCommit_shape s c w v); exact h
@[simp] theorem csrCommit_cfg (c : Csr) (w : Bool) (v : Word) :
    (s.csrCommit c w v).cfg = s.cfg := by have h := congrArg State.cfg (csrCommit_shape s c w v); exact h
@[simp] theorem csrCommit_irqDelay (c : Csr) (w : Bool) (v : Word) :
    (s.csrCommit c w v).irqDelay = s.irqDelay := by have h := congrArg State.irqDelay (csrCommit_shape s c w v); exact h
@[simp] theorem csrCommit_mtipDelay (c : Csr) (w : Bool) (v : Word) :
    (s.csrCommit c w v).mtipDelay = s.mtipDelay := by have h := congrArg State.mtipDelay (csrCommit_shape s c w v); exact h
@[simp] theorem csrCommit_mtimeWait (c : Csr) (w : Bool) (v : Word) :
    (s.csrCommit c w v).mtimeWait = s.mtimeWait := by have h := congrArg State.mtimeWait (csrCommit_shape s c w v); exact h
@[simp] theorem csrCommit_boundary (c : Csr) (w : Bool) (v : Word) :
    (s.csrCommit c w v).boundary = s.boundary := by have h := congrArg State.boundary (csrCommit_shape s c w v); exact h
@[simp] theorem csrCommit_trace (c : Csr) (w : Bool) (v : Word) :
    (s.csrCommit c w v).trace = s.trace := by have h := congrArg State.trace (csrCommit_shape s c w v); exact h

/-! ### `State.csrRetire` -/

@[simp] theorem csrRetire_gpr (c : Csr) (w : Bool) : (s.csrRetire c w).gpr = s.gpr := by unfold State.csrRetire; split <;> rfl
@[simp] theorem csrRetire_pc (c : Csr) (w : Bool) :
    (s.csrRetire c w).pc = s.pc + 4#32 := by unfold State.csrRetire; split <;> rfl
@[simp] theorem csrRetire_priv (c : Csr) (w : Bool) :
    (s.csrRetire c w).priv = s.priv := by unfold State.csrRetire; split <;> rfl
@[simp] theorem csrRetire_mstatusMie (c : Csr) (w : Bool) :
    (s.csrRetire c w).mstatusMie = s.mstatusMie := by unfold State.csrRetire; split <;> rfl
@[simp] theorem csrRetire_mstatusMpie (c : Csr) (w : Bool) :
    (s.csrRetire c w).mstatusMpie = s.mstatusMpie := by unfold State.csrRetire; split <;> rfl
@[simp] theorem csrRetire_mtvecBase (c : Csr) (w : Bool) :
    (s.csrRetire c w).mtvecBase = s.mtvecBase := by unfold State.csrRetire; split <;> rfl
@[simp] theorem csrRetire_mieMeie (c : Csr) (w : Bool) :
    (s.csrRetire c w).mieMeie = s.mieMeie := by unfold State.csrRetire; split <;> rfl
@[simp] theorem csrRetire_mieMtie (c : Csr) (w : Bool) :
    (s.csrRetire c w).mieMtie = s.mieMtie := by unfold State.csrRetire; split <;> rfl
@[simp] theorem csrRetire_mscratch (c : Csr) (w : Bool) :
    (s.csrRetire c w).mscratch = s.mscratch := by unfold State.csrRetire; split <;> rfl
@[simp] theorem csrRetire_mepc (c : Csr) (w : Bool) :
    (s.csrRetire c w).mepc = s.mepc := by unfold State.csrRetire; split <;> rfl
@[simp] theorem csrRetire_mcause (c : Csr) (w : Bool) :
    (s.csrRetire c w).mcause = s.mcause := by unfold State.csrRetire; split <;> rfl
@[simp] theorem csrRetire_mcycle (c : Csr) (w : Bool) :
    (s.csrRetire c w).mcycle = s.mcycle := by unfold State.csrRetire; split <;> rfl
@[simp] theorem csrRetire_pmpcfg (c : Csr) (w : Bool) :
    (s.csrRetire c w).pmpcfg = s.pmpcfg := by unfold State.csrRetire; split <;> rfl
@[simp] theorem csrRetire_pmpaddr (c : Csr) (w : Bool) :
    (s.csrRetire c w).pmpaddr = s.pmpaddr := by unfold State.csrRetire; split <;> rfl
@[simp] theorem csrRetire_extIrq (c : Csr) (w : Bool) :
    (s.csrRetire c w).extIrq = s.extIrq := by unfold State.csrRetire; split <;> rfl
@[simp] theorem csrRetire_mtime (c : Csr) (w : Bool) :
    (s.csrRetire c w).mtime = s.mtime := by unfold State.csrRetire; split <;> rfl
@[simp] theorem csrRetire_mtimecmp (c : Csr) (w : Bool) :
    (s.csrRetire c w).mtimecmp = s.mtimecmp := by unfold State.csrRetire; split <;> rfl
@[simp] theorem csrRetire_mtipLine (c : Csr) (w : Bool) :
    (s.csrRetire c w).mtipLine = s.mtipLine := by unfold State.csrRetire; split <;> rfl
@[simp] theorem csrRetire_nmiPending (c : Csr) (w : Bool) :
    (s.csrRetire c w).nmiPending = s.nmiPending := by unfold State.csrRetire; split <;> rfl
@[simp] theorem csrRetire_wfiStalled (c : Csr) (w : Bool) :
    (s.csrRetire c w).wfiStalled = s.wfiStalled := by unfold State.csrRetire; split <;> rfl
@[simp] theorem csrRetire_mem (c : Csr) (w : Bool) : (s.csrRetire c w).mem = s.mem := by unfold State.csrRetire; split <;> rfl
@[simp] theorem csrRetire_stored (c : Csr) (w : Bool) :
    (s.csrRetire c w).stored = s.stored := by unfold State.csrRetire; split <;> rfl
@[simp] theorem csrRetire_cfg (c : Csr) (w : Bool) : (s.csrRetire c w).cfg = s.cfg := by unfold State.csrRetire; split <;> rfl
@[simp] theorem csrRetire_irqDelay (c : Csr) (w : Bool) :
    (s.csrRetire c w).irqDelay = s.irqDelay := by unfold State.csrRetire; split <;> rfl
@[simp] theorem csrRetire_irqNow (c : Csr) (w : Bool) :
    (s.csrRetire c w).irqNow = s.irqNow := by unfold State.csrRetire; split <;> rfl
@[simp] theorem csrRetire_mtipDelay (c : Csr) (w : Bool) :
    (s.csrRetire c w).mtipDelay = s.mtipDelay := by unfold State.csrRetire; split <;> rfl
@[simp] theorem csrRetire_mtimeWait (c : Csr) (w : Bool) :
    (s.csrRetire c w).mtimeWait = s.mtimeWait := by unfold State.csrRetire; split <;> rfl
@[simp] theorem csrRetire_cycleHeld (c : Csr) (w : Bool) :
    (s.csrRetire c w).cycleHeld = s.cycleHeld := by unfold State.csrRetire; split <;> rfl
@[simp] theorem csrRetire_boundary (c : Csr) (w : Bool) :
    (s.csrRetire c w).boundary = s.boundary := by unfold State.csrRetire; split <;> rfl
@[simp] theorem csrRetire_trace (c : Csr) (w : Bool) :
    (s.csrRetire c w).trace = s.trace := by unfold State.csrRetire; split <;> rfl

/-! ### `State.advancePlatform` -/

@[simp] theorem advancePlatform_gpr : s.advancePlatform.gpr = s.gpr := rfl
@[simp] theorem advancePlatform_pc : s.advancePlatform.pc = s.pc := rfl
@[simp] theorem advancePlatform_priv : s.advancePlatform.priv = s.priv := rfl
@[simp] theorem advancePlatform_mstatusMie : s.advancePlatform.mstatusMie = s.mstatusMie := rfl
@[simp] theorem advancePlatform_mstatusMpie : s.advancePlatform.mstatusMpie = s.mstatusMpie := rfl
@[simp] theorem advancePlatform_mtvecBase : s.advancePlatform.mtvecBase = s.mtvecBase := rfl
@[simp] theorem advancePlatform_mieMeie : s.advancePlatform.mieMeie = s.mieMeie := rfl
@[simp] theorem advancePlatform_mieMtie : s.advancePlatform.mieMtie = s.mieMtie := rfl
@[simp] theorem advancePlatform_mscratch : s.advancePlatform.mscratch = s.mscratch := rfl
@[simp] theorem advancePlatform_mepc : s.advancePlatform.mepc = s.mepc := rfl
@[simp] theorem advancePlatform_mcause : s.advancePlatform.mcause = s.mcause := rfl
@[simp] theorem advancePlatform_mcycle :
    s.advancePlatform.mcycle = (if s.cycleHeld then s.mcycle else s.mcycle + BitVec.ofNat 64 s.drawNow.cycles) := rfl
@[simp] theorem advancePlatform_minstret : s.advancePlatform.minstret = s.minstret := rfl
@[simp] theorem advancePlatform_pmpcfg : s.advancePlatform.pmpcfg = s.pmpcfg := rfl
@[simp] theorem advancePlatform_pmpaddr : s.advancePlatform.pmpaddr = s.pmpaddr := rfl
@[simp] theorem advancePlatform_extIrq : s.advancePlatform.extIrq = s.drawNow.extIrq := rfl
@[simp] theorem advancePlatform_mtime :
    s.advancePlatform.mtime = s.mtime + BitVec.ofNat 64 (mtimeAdvance s.mtimeWait s.drawNow.mtimeTicks) := rfl
@[simp] theorem advancePlatform_mtimecmp : s.advancePlatform.mtimecmp = s.mtimecmp := rfl
@[simp] theorem advancePlatform_nmiPending : s.advancePlatform.nmiPending = (s.cfg.nmi.isSome && s.drawNow.nmi) := rfl
@[simp] theorem advancePlatform_wfiStalled : s.advancePlatform.wfiStalled = s.wfiStalled := rfl
@[simp] theorem advancePlatform_mem : s.advancePlatform.mem = s.mem := rfl
@[simp] theorem advancePlatform_stored : s.advancePlatform.stored = s.stored := rfl
@[simp] theorem advancePlatform_cfg : s.advancePlatform.cfg = s.cfg := rfl
@[simp] theorem advancePlatform_irqDelay : s.advancePlatform.irqDelay = s.irqDelay := rfl
@[simp] theorem advancePlatform_irqNow : s.advancePlatform.irqNow = s.irqNow := rfl
@[simp] theorem advancePlatform_mtimeWait : s.advancePlatform.mtimeWait = nextMtimeWait s.mtimeWait s.drawNow.mtimeWait := rfl
@[simp] theorem advancePlatform_cycleHeld : s.advancePlatform.cycleHeld = false := rfl
@[simp] theorem advancePlatform_boundary : s.advancePlatform.boundary = s.boundary + 1 := rfl
@[simp] theorem advancePlatform_trace : s.advancePlatform.trace = s.trace.tail := rfl

/-! ### `State.tick` -/

@[simp] theorem tick_gpr : s.tick.gpr = s.gpr := rfl
@[simp] theorem tick_pc : s.tick.pc = s.pc := rfl
@[simp] theorem tick_priv : s.tick.priv = s.priv := rfl
@[simp] theorem tick_mstatusMie : s.tick.mstatusMie = s.mstatusMie := rfl
@[simp] theorem tick_mstatusMpie : s.tick.mstatusMpie = s.mstatusMpie := rfl
@[simp] theorem tick_mtvecBase : s.tick.mtvecBase = s.mtvecBase := rfl
@[simp] theorem tick_mieMeie : s.tick.mieMeie = s.mieMeie := rfl
@[simp] theorem tick_mieMtie : s.tick.mieMtie = s.mieMtie := rfl
@[simp] theorem tick_mscratch : s.tick.mscratch = s.mscratch := rfl
@[simp] theorem tick_mepc : s.tick.mepc = s.mepc := rfl
@[simp] theorem tick_mcause : s.tick.mcause = s.mcause := rfl
@[simp] theorem tick_mcycle :
    s.tick.mcycle = (if s.cycleHeld then s.mcycle else s.mcycle + BitVec.ofNat 64 s.drawNow.cycles) := rfl
@[simp] theorem tick_minstret : s.tick.minstret = s.minstret := rfl
@[simp] theorem tick_pmpcfg : s.tick.pmpcfg = s.pmpcfg := rfl
@[simp] theorem tick_pmpaddr : s.tick.pmpaddr = s.pmpaddr := rfl
@[simp] theorem tick_extIrq : s.tick.extIrq = s.drawNow.extIrq := rfl
@[simp] theorem tick_mtime : s.tick.mtime = s.mtime + BitVec.ofNat 64 (mtimeAdvance s.mtimeWait s.drawNow.mtimeTicks) := rfl
@[simp] theorem tick_mtimecmp : s.tick.mtimecmp = s.mtimecmp := rfl
@[simp] theorem tick_nmiPending : s.tick.nmiPending = (s.cfg.nmi.isSome && s.drawNow.nmi) := rfl
@[simp] theorem tick_wfiStalled : s.tick.wfiStalled = s.wfiStalled := rfl
@[simp] theorem tick_mem : s.tick.mem = s.mem := rfl
@[simp] theorem tick_stored : s.tick.stored = s.stored := rfl
@[simp] theorem tick_cfg : s.tick.cfg = s.cfg := rfl
@[simp] theorem tick_irqDelay : s.tick.irqDelay = nextIrqDelay s s.advancePlatform := rfl
@[simp] theorem tick_irqNow : s.tick.irqNow = false := rfl
@[simp] theorem tick_mtimeWait : s.tick.mtimeWait = nextMtimeWait s.mtimeWait s.drawNow.mtimeWait := rfl
@[simp] theorem tick_cycleHeld : s.tick.cycleHeld = false := rfl
@[simp] theorem tick_boundary : s.tick.boundary = s.boundary + 1 := rfl
@[simp] theorem tick_trace : s.tick.trace = s.trace.tail := rfl

end Sys2Proof.Machine
end

