-- ==== Sys2Proof/Laws/Memory.lean ====
section
/-! SUPPORT. Memory: read after write, every other byte, and the canonical form that every operation keeps. -/

namespace Sys2Proof.Machine

/-! ### One byte -/

/-- A written byte reads back. -/
theorem readByte_writeByte_same (m : Memory) (a : Nat) (v : Byte) : (m.writeByte a v).readByte a = some v := by
  induction m with
  | nil => simp [Memory.writeByte, Memory.readByte]
  | cons c m ih =>
    obtain ⟨k, b⟩ := c
    simp only [Memory.writeByte]
    split
    · simp [Memory.readByte]
    · split
      · simp [Memory.readByte]
      · rename_i h1 h2
        simp [Memory.readByte, ih, Ne.symm h2]

/-- Every other byte reads as before. -/
theorem readByte_writeByte_other (m : Memory) {a a' : Nat} (v : Byte) (h : a' ≠ a) :
    (m.writeByte a v).readByte a' = m.readByte a' := by
  induction m with
  | nil => simp [Memory.writeByte, Memory.readByte, Ne.symm h]
  | cons c m ih =>
    obtain ⟨k, b⟩ := c
    simp only [Memory.writeByte]
    split
    · simp [Memory.readByte, Ne.symm h]
    · split
      · rename_i h1 h2
        subst h2
        simp [Memory.readByte, Ne.symm h]
      · simp [Memory.readByte, ih]

/-- The addresses listed after a write: the written one, and those listed before. -/
theorem mem_writeByte_keys {m : Memory} {a k : Nat} {v : Byte} (h : k ∈ (m.writeByte a v).map Prod.fst) :
    k = a ∨ k ∈ m.map Prod.fst := by
  induction m with
  | nil => simpa [Memory.writeByte] using h
  | cons c m ih =>
    obtain ⟨j, b⟩ := c
    simp only [Memory.writeByte] at h
    split at h
    · simp only [List.map_cons, List.mem_cons] at h ⊢; tauto
    · split at h
      · simp only [List.map_cons, List.mem_cons] at h ⊢; tauto
      · simp only [List.map_cons, List.mem_cons] at h ⊢
        rcases h with h | h
        · tauto
        · have := ih h; tauto

theorem keys_lt_of_wf {m : Memory} (h : m.wf) : ∀ k ∈ m.map Prod.fst, k < 2 ^ 32 := by
  intro k hk
  obtain ⟨c, hc, rfl⟩ := List.mem_map.mp hk
  exact h.2 c hc

theorem wf_of_keys {m : Memory} (h1 : (m.map Prod.fst).Pairwise (· < ·)) (h2 : ∀ k ∈ m.map Prod.fst, k < 2 ^ 32) :
    m.wf := ⟨h1, fun c hc => h2 c.1 (List.mem_map_of_mem hc)⟩

theorem writeByte_rising {m : Memory} (h : (m.map Prod.fst).Pairwise (· < ·)) (a : Nat) (v : Byte) :
    ((m.writeByte a v).map Prod.fst).Pairwise (· < ·) := by
  induction m with
  | nil => simp [Memory.writeByte]
  | cons c m ih =>
    obtain ⟨k, b⟩ := c
    simp only [List.map_cons, List.pairwise_cons] at h
    simp only [Memory.writeByte]
    split
    · rename_i hlt
      simp only [List.map_cons, List.pairwise_cons, List.mem_cons, forall_eq_or_imp]
      exact ⟨⟨hlt, fun j hj => lt_trans hlt (h.1 j hj)⟩, h.1, h.2⟩
    · split
      · rename_i h1 h2
        subst h2
        simpa only [List.map_cons, List.pairwise_cons] using h
      · rename_i h1 h2
        simp only [List.map_cons, List.pairwise_cons]
        refine ⟨fun j hj => ?_, ih h.2⟩
        rcases mem_writeByte_keys hj with rfl | hj
        · omega
        · exact h.1 j hj

/-- Writing a byte keeps the canonical form. -/
theorem writeByte_wf {m : Memory} (h : m.wf) {a : Nat} (ha : a < 2 ^ 32) (v : Byte) : (m.writeByte a v).wf :=
  wf_of_keys (writeByte_rising h.1 a v) (fun k hk => by
    rcases mem_writeByte_keys hk with rfl | hk
    · exact ha
    · exact keys_lt_of_wf h k hk)

/-! ### One word -/

theorem writeWord_wf {m : Memory} (h : m.wf) (a v : Word) : (m.writeWord a v).wf :=
  writeByte_wf (writeByte_wf (writeByte_wf (writeByte_wf h a.isLt _) (BitVec.isLt _) _) (BitVec.isLt _) _)
    (BitVec.isLt _) _

/-- The four bytes of an access are distinct. -/
theorem byteAddress_toNat_ne (a : Word) {j k : Nat} (hj : j < 4) (hk : k < 4) (h : j ≠ k) :
    (byteAddress a j).toNat ≠ (byteAddress a k).toNat := by
  simp only [byteAddress, BitVec.toNat_add, BitVec.toNat_ofNat]
  have := a.isLt
  omega

theorem byteAddress_zero (a : Word) : byteAddress a 0 = a := by simp [byteAddress]

/-- Byte `k` of a written word reads back bits 8k+7:8k (R121). -/
theorem readByte_writeWord_same (m : Memory) (a v : Word) {k : Nat} (hk : k < 4) :
    (m.writeWord a v).readByte (byteAddress a k).toNat = some (v.extractLsb' (8 * k) 8) := by
  have hne : ∀ {j k : Nat}, j < 4 → k < 4 → j ≠ k → (byteAddress a j).toNat ≠ (byteAddress a k).toNat :=
    fun hj hk h => byteAddress_toNat_ne a hj hk h
  have e0 : a.toNat = (byteAddress a 0).toNat := by rw [byteAddress_zero]
  unfold Memory.writeWord
  rw [e0]
  match k, hk with
  | 0, _ =>
    rw [readByte_writeByte_other _ _ (hne (by omega) (by omega) (by omega)),
      readByte_writeByte_other _ _ (hne (by omega) (by omega) (by omega)),
      readByte_writeByte_other _ _ (hne (by omega) (by omega) (by omega)), readByte_writeByte_same]
  | 1, _ =>
    rw [readByte_writeByte_other _ _ (hne (by omega) (by omega) (by omega)),
      readByte_writeByte_other _ _ (hne (by omega) (by omega) (by omega)), readByte_writeByte_same]
  | 2, _ =>
    rw [readByte_writeByte_other _ _ (hne (by omega) (by omega) (by omega)), readByte_writeByte_same]
  | 3, _ => rw [readByte_writeByte_same]

/-- Every byte outside the four reads as before. -/
theorem readByte_writeWord_other (m : Memory) (a v : Word) {b : Nat}
    (h : ∀ k, k < 4 → b ≠ (byteAddress a k).toNat) : (m.writeWord a v).readByte b = m.readByte b := by
  have h0 : b ≠ a.toNat := by have := h 0 (by omega); rwa [byteAddress_zero] at this
  unfold Memory.writeWord
  rw [readByte_writeByte_other _ _ (h 3 (by omega)), readByte_writeByte_other _ _ (h 2 (by omega)),
    readByte_writeByte_other _ _ (h 1 (by omega)), readByte_writeByte_other _ _ h0]

/-! ### The state's memory -/

theorem byteAt_of_mem {s t : State} (h : t.mem = s.mem) (a : Word) : t.byteAt a = s.byteAt a := by
  simp only [State.byteAt, h]

theorem byteAt_storeRamWord_same (s : State) (a v : Word) {k : Nat} (hk : k < 4) :
    (s.storeRamWord a v).byteAt (byteAddress a k) = v.extractLsb' (8 * k) 8 := by
  simp [State.byteAt, readByte_writeWord_same _ _ _ hk]

theorem byteAt_storeRamWord_other (s : State) (a v : Word) {b : Word}
    (h : ∀ k, k < 4 → b ≠ byteAddress a k) : (s.storeRamWord a v).byteAt b = s.byteAt b := by
  have h' : ∀ k, k < 4 → b.toNat ≠ (byteAddress a k).toNat :=
    fun k hk e => h k hk (BitVec.eq_of_toNat_eq e)
  simp [State.byteAt, readByte_writeWord_other _ _ _ h']

/-! ### The stored-to marking (R143) -/

theorem mem_markStored {l : List Nat} {a k : Nat} : k ∈ markStored l a ↔ k = a ∨ k ∈ l := by
  induction l with
  | nil => simp [markStored]
  | cons j l ih =>
    simp only [markStored]
    split
    · simp
    · split
      · rename_i h1 h2; subst h2; simp
      · simp only [List.mem_cons, ih]; tauto

theorem markStored_rising {l : List Nat} (h : l.Pairwise (· < ·)) (a : Nat) : (markStored l a).Pairwise (· < ·) := by
  induction l with
  | nil => simp [markStored]
  | cons j l ih =>
    simp only [List.pairwise_cons] at h
    simp only [markStored]
    split
    · rename_i hlt
      simp only [List.pairwise_cons, List.mem_cons, forall_eq_or_imp]
      exact ⟨⟨hlt, fun k hk => lt_trans hlt (h.1 k hk)⟩, h.1, h.2⟩
    · split
      · simpa only [List.pairwise_cons] using h
      · simp only [List.pairwise_cons]
        refine ⟨fun k hk => ?_, ih h.2⟩
        rcases mem_markStored.mp hk with rfl | hk
        · omega
        · exact h.1 k hk

theorem mem_markWord {l : List Nat} {a : Word} {b : Nat} :
    b ∈ markWord l a ↔ b ∈ l ∨ ∃ k, k < 4 ∧ b = (byteAddress a k).toNat := by
  have e0 : a.toNat = (byteAddress a 0).toNat := by rw [byteAddress_zero]
  simp only [markWord, mem_markStored]
  rw [e0]
  constructor
  · rintro (h | h | h | h | h)
    · exact .inr ⟨3, by omega, h⟩
    · exact .inr ⟨2, by omega, h⟩
    · exact .inr ⟨1, by omega, h⟩
    · exact .inr ⟨0, by omega, h⟩
    · exact .inl h
  · rintro (h | ⟨k, hk, h⟩)
    · simp [h]
    · match k, hk with
      | 0, _ => simp [h]
      | 1, _ => simp [h]
      | 2, _ => simp [h]
      | 3, _ => simp [h]

theorem markWord_rising {l : List Nat} (h : l.Pairwise (· < ·)) (a : Word) : (markWord l a).Pairwise (· < ·) :=
  markStored_rising (markStored_rising (markStored_rising (markStored_rising h _) _) _) _

/-! ### Placing an image -/

/-- Placing bytes from outside keeps the canonical form. -/
theorem placeBytes_mem_wf (bs : List Byte) (s : State) (a : Word) (h : s.mem.wf) : (s.placeBytes a bs).mem.wf := by
  induction bs generalizing s a with
  | nil => exact h
  | cons b bs ih => exact ih _ _ (writeByte_wf h a.isLt b)

/-- Memory after reset is in canonical form. -/
theorem reset_mem_wf : State.reset.mem.wf := ⟨List.Pairwise.nil, fun _ h => by cases h⟩

/-- The one write to memory a store makes keeps the canonical form. -/
theorem writeWord_mem_wf {s : State} (h : s.mem.wf) (a v : Word) : (s.writeWord a v).mem.wf := by
  unfold State.writeWord
  split <;> first | exact h | exact Sys2Proof.Machine.writeWord_wf h a v

end Sys2Proof.Machine
end

