-- ==== Sys2Proof/Laws/Pmp.lean ====
section
/-! SUPPORT. Physical memory protection: what a configuration byte holds after a write, and what the check answers for an
access whose bytes all lie in one granule. -/

namespace Sys2Proof.Machine

open Sys2Proof.Config (AccessType)

/-! ### Configuration bytes (R162, R165, R166, R170) -/

theorem pmpForceLegal_legal (b : Byte) : pmpLegalByte (pmpForceLegal b) = true := by
  revert b; decide +kernel

/-- `pmp_legalize` answers a legal byte. -/
theorem pmpLegalize_legal (old w : Byte) : pmpLegalByte (pmpLegalize old w) = true := by
  unfold pmpLegalize
  split
  · assumption
  · exact pmpForceLegal_legal _

/-- A legal byte stays legal under a write. -/
theorem pmpCfgAfterWrite_legal {old : Byte} (h : pmpLegalByte old = true) (w : Byte) :
    pmpLegalByte (pmpCfgAfterWrite old w) = true := by
  unfold pmpCfgAfterWrite
  split
  · exact h
  · exact pmpLegalize_legal _ _

/-- A locked byte ignores a write. -/
theorem pmpCfgAfterWrite_locked {old : Byte} (h : pmpL old = true) (w : Byte) : pmpCfgAfterWrite old w = old := by
  simp [pmpCfgAfterWrite, h]

/-- An unlocked byte takes a legal value as written. -/
theorem pmpCfgAfterWrite_unlocked {old w : Byte} (h : pmpL old = false) (hw : pmpLegalByte (w &&& 0x9F#8) = true) :
    pmpCfgAfterWrite old w = w &&& 0x9F#8 := by
  simp [pmpCfgAfterWrite, pmpLegalize, h, hw]

theorem pmpaddrLegal_grain (v : Word) : (pmpaddrLegal v).getLsbD 0 = false := by
  simp [pmpaddrLegal]

/-! ### The scan (R174, R175) -/

/-- How many bytes an entry matches, when it matches them alike. -/
theorem hits_uniform {e : PmpEntry} {a : Word} {n : Nat} {b : Bool}
    (h : ∀ k, k < n → e.matchesByte (a + BitVec.ofNat 32 k) = b) : e.hits a n = if b then n else 0 := by
  unfold PmpEntry.hits
  cases b with
  | true =>
    rw [List.countP_eq_length.mpr]
    · simp
    · intro k hk; exact h k (List.mem_range.mp hk)
  | false =>
    rw [List.countP_eq_zero.mpr]
    · rfl
    · intro k hk; simp [h k (List.mem_range.mp hk)]

/-- An entry that matches no byte is passed over. -/
theorem pmpScan_cons_miss {e : PmpEntry} {a : Word} {n : Nat} (t : AccessType) (es : List PmpEntry)
    (h : ∀ k, k < n → e.matchesByte (a + BitVec.ofNat 32 k) = false) : pmpScan a n t (e :: es) = pmpScan a n t es := by
  simp [pmpScan, hits_uniform h]

/-- The first entry that matches all bytes decides. -/
theorem pmpScan_cons_hit {e : PmpEntry} {a : Word} {n : Nat} (t : AccessType) (es : List PmpEntry) (hn : 0 < n)
    (h : ∀ k, k < n → e.matchesByte (a + BitVec.ofNat 32 k) = true) :
    pmpScan a n t (e :: es) = (!pmpL e.cfg || e.permits t) := by
  simp [pmpScan, hits_uniform h, Nat.pos_iff_ne_zero.mp hn]

/-- Matching looks at the address in units of four bytes. -/
theorem matchesByte_congr (e : PmpEntry) {a b : Word} (h : a.toNat / 4 = b.toNat / 4) :
    e.matchesByte a = e.matchesByte b := by
  simp only [PmpEntry.matchesByte, h]

/-- The bytes of an aligned word have one address in units of four bytes. -/
theorem aligned_div (a : Word) (h : a.toNat % 4 = 0) {k : Nat} (hk : k < 4) :
    (a + BitVec.ofNat 32 k).toNat / 4 = a.toNat / 4 := by
  have := a.isLt
  simp only [BitVec.toNat_add, BitVec.toNat_ofNat]
  omega

theorem aligned_matches (e : PmpEntry) (a : Word) (h : a.toNat % 4 = 0) {k : Nat} (hk : k < 4) :
    e.matchesByte (a + BitVec.ofNat 32 k) = e.matchesByte a :=
  matchesByte_congr e (aligned_div a h hk)

/-- What the scan answers for an access of `n` bytes that every entry matches alike: the first entry that matches the first
byte decides, and without one the access succeeds. -/
theorem pmpScan_uniform (a : Word) (n : Nat) (t : AccessType) (hn : 0 < n) (es : List PmpEntry)
    (h : ∀ e ∈ es, ∀ k, k < n → e.matchesByte (a + BitVec.ofNat 32 k) = e.matchesByte a) :
    pmpScan a n t es =
      match es.find? (fun e => e.matchesByte a) with
      | none => true
      | some e => !pmpL e.cfg || e.permits t := by
  induction es with
  | nil => rfl
  | cons e es ih =>
    have he := h e (by simp)
    have ih' := ih (fun e' he' => h e' (by simp [he']))
    cases hm : e.matchesByte a with
    | true =>
      rw [pmpScan_cons_hit t es hn (fun k hk => by rw [he k hk, hm])]
      simp [hm]
    | false =>
      rw [pmpScan_cons_miss t es (fun k hk => by rw [he k hk, hm]), ih']
      simp [hm]

/-- What the check answers for an aligned word. -/
theorem pmpAllows_aligned (s : State) (a : Word) (t : AccessType) (h : a.toNat % 4 = 0) :
    s.pmpAllows a 4 t =
      match s.pmpEntries.find? (fun e => e.matchesByte a) with
      | none => true
      | some e => !pmpL e.cfg || e.permits t :=
  pmpScan_uniform a 4 t (by omega) _ (fun e _ _ hk => aligned_matches e a h hk)

/-- What the check answers for one byte. -/
theorem pmpAllows_byte (s : State) (a : Word) (t : AccessType) :
    s.pmpAllows a 1 t =
      match s.pmpEntries.find? (fun e => e.matchesByte a) with
      | none => true
      | some e => !pmpL e.cfg || e.permits t :=
  pmpScan_uniform a 1 t (by omega) _ (fun e _ k hk => by
    have : k = 0 := by omega
    subst this; simp)

/-- An aligned word is allowed as a whole where its bytes are allowed one by one: no entry matches a part of it (R167). -/
theorem pmpAllowsSplit_aligned (s : State) (a : Word) (t : AccessType) (h : a.toNat % 4 = 0) :
    s.pmpAllowsSplit a 4 t = s.pmpAllows a 4 t := by
  have key : ∀ k, k < 4 → s.pmpAllows (a + BitVec.ofNat 32 k) 1 t = s.pmpAllows a 4 t := by
    intro k hk
    rw [pmpAllows_byte, pmpAllows_aligned s a t h]
    have : (fun e : PmpEntry => e.matchesByte (a + BitVec.ofNat 32 k)) = fun e => e.matchesByte a :=
      funext fun e => aligned_matches e a h hk
    rw [this]
  have e : List.range 4 = [0, 1, 2, 3] := rfl
  simp only [State.pmpAllowsSplit, e, List.all_cons, List.all_nil, key 0 (by omega), key 1 (by omega),
    key 2 (by omega), key 3 (by omega), Bool.and_true, Bool.and_self]

/-- The entry at a place of the list of entries. -/
theorem pmpEntries_getElem (s : State) (i : Fin 8) : s.pmpEntries[i.val]? = some (s.pmpEntry i) := by
  fin_cases i <;> rfl

end Sys2Proof.Machine
end

