-- ==== Sys2Proof/Laws/Registers.lean ====
section
/-! SUPPORT. Reading and writing general registers (R20). -/

namespace Sys2Proof.Machine

/-- Reading a register looks at the register file alone. -/
theorem getX_of_gpr {s t : State} (h : t.gpr = s.gpr) (r : Reg) : t.getX r = s.getX r := by
  simp only [State.getX, h]

@[simp] theorem getX_zero (s : State) : s.getX 0#5 = 0#32 := by simp [State.getX]

@[simp] theorem setX_zero (s : State) (v : Word) : s.setX 0#5 v = s := by simp [State.setX]

theorem reg_index_ne {q r : Reg} (hq : q ≠ 0#5) (hr : r ≠ 0#5) (h : q ≠ r) : r.toNat - 1 ≠ q.toNat - 1 := by
  have h1 : q.toNat ≠ 0 := fun h' => hq (BitVec.eq_of_toNat_eq (by simpa using h'))
  have h2 : r.toNat ≠ 0 := fun h' => hr (BitVec.eq_of_toNat_eq (by simpa using h'))
  have h3 : q.toNat ≠ r.toNat := fun h' => h (BitVec.eq_of_toNat_eq h')
  omega

/-- A written register reads what was written, unless it is `x0`. -/
theorem getX_setX_same (s : State) (r : Reg) (v : Word) :
    (s.setX r v).getX r = if r = 0#5 then 0#32 else v := by
  by_cases h : r = 0#5
  · subst h; simp
  · simp [State.setX, State.getX, h]

/-- Every other register is as before. -/
theorem getX_setX_other (s : State) {q r : Reg} (v : Word) (h : q ≠ r) :
    (s.setX r v).getX q = s.getX q := by
  by_cases hq : q = 0#5
  · subst hq; simp
  · by_cases hr : r = 0#5
    · subst hr; simp
    · simp only [State.getX, State.setX, hq, hr, dif_neg, not_false_iff]
      exact Vector.getElem_set_ne _ _ (reg_index_ne hq hr h)

@[simp] theorem getX_retireTo (s : State) (a : Word) (r : Reg) : (s.retireTo a).getX r = s.getX r := rfl
@[simp] theorem getX_retire (s : State) (r : Reg) : s.retire.getX r = s.getX r := rfl
@[simp] theorem getX_trapEntry (s : State) (b : Bool) (c : BitVec 31) (a : Word) (r : Reg) :
    (s.trapEntry b c a).getX r = s.getX r := rfl
@[simp] theorem getX_raise (s : State) (e : Exception) (r : Reg) : (s.raise e).getX r = s.getX r := rfl
@[simp] theorem getX_interruptEntry (s : State) (i : Interrupt) (r : Reg) :
    (s.interruptEntry i).getX r = s.getX r := rfl
@[simp] theorem getX_nmiEntry (s : State) (v : Word) (r : Reg) : (s.nmiEntry v).getX r = s.getX r := rfl
@[simp] theorem getX_trapReturn (s : State) (r : Reg) : s.trapReturn.getX r = s.getX r := rfl
@[simp] theorem getX_wfiComplete (s : State) (r : Reg) : s.wfiComplete.getX r = s.getX r := rfl
@[simp] theorem getX_tick (s : State) (r : Reg) : s.tick.getX r = s.getX r := rfl
@[simp] theorem getX_writeWord (s : State) (a v : Word) (r : Reg) : (s.writeWord a v).getX r = s.getX r :=
  getX_of_gpr (by simp) r
@[simp] theorem getX_csrWrite (s : State) (c : Csr) (v : Word) (r : Reg) :
    (s.csrWrite c v).getX r = s.getX r := getX_of_gpr (by simp) r
@[simp] theorem getX_csrCommit (s : State) (c : Csr) (w : Bool) (v : Word) (r : Reg) :
    (s.csrCommit c w v).getX r = s.getX r := getX_of_gpr (by simp) r
@[simp] theorem getX_csrRetire (s : State) (c : Csr) (w : Bool) (r : Reg) :
    (s.csrRetire c w).getX r = s.getX r := getX_of_gpr (by simp) r

end Sys2Proof.Machine
end

