-- ==== Sys2Proof/Laws/Ops.lean ====
section
/-! SUPPORT. For each shared operation one lemma that says everything it can do: later proofs cite it instead of unfolding. -/

namespace Sys2Proof.Machine

open Sys2Proof.Config (AccessType)

/-! ### Control transfer -/

/-- A jump retires with its link register written, or raises the misaligned-address exception. -/
theorem jumpTo_cases (s : State) (target : Word) (link : Reg) (ret : Word) :
    (ialigned s.cfg target = true ∧ s.jumpTo target link ret = (s.setX link ret).retireTo target) ∨
    (ialigned s.cfg target = false ∧ s.jumpTo target link ret = s.raise .instructionAddressMisaligned) := by
  unfold State.jumpTo
  cases h : ialigned s.cfg target <;> simp

/-- Where IALIGN = 16 an even displacement keeps an aligned address aligned. -/
theorem ialigned_of_extC {cfg : Config.Params} (h : cfg.extC = true) (a : Word) :
    ialigned cfg a = (a.extractLsb' 0 1 == 0#1) := by simp [ialigned, h]

/-! ### Data access -/

/-- The checks of an access: PMP, then PMA, then alignment (R131). -/
theorem checkAccess_cases (s : State) (a : Word) (n : Nat) (t : AccessType) :
    (s.checkAccess a n t = .accessFault ∧ (s.dataPmpPasses a n t = false ∨ pmaOk s.cfg a n t = false)) ∨
    (s.checkAccess a n t = .misaligned ∧ s.dataPmpPasses a n t = true ∧ pmaOk s.cfg a n t = true ∧ a.toNat % n ≠ 0 ∧
      touchesTimer s.cfg a n = false) ∨
    (s.checkAccess a n t = .timerMisaligned ∧ s.dataPmpPasses a n t = true ∧ pmaOk s.cfg a n t = true ∧ a.toNat % n ≠ 0 ∧
      touchesTimer s.cfg a n = true) ∨
    (s.checkAccess a n t = .allowed ∧ s.dataPmpPasses a n t = true ∧ pmaOk s.cfg a n t = true ∧ a.toNat % n = 0) := by
  unfold State.checkAccess
  cases h1 : s.dataPmpPasses a n t <;> cases h2 : pmaOk s.cfg a n t <;> by_cases h3 : a.toNat % n = 0 <;>
    cases h4 : touchesTimer s.cfg a n <;> simp [h3]

/-- A checked access that is allowed. -/
theorem checkAccess_allowed {s : State} {a : Word} {n : Nat} {t : AccessType} (h1 : s.pmpAllows a n t = true)
    (h2 : pmaOk s.cfg a n t = true) (h3 : a.toNat % n = 0) : s.checkAccess a n t = .allowed := by
  simp [State.checkAccess, State.dataPmpPasses, h1, h2, h3]

/-- A write reaches half of a timer register, or four bytes of main memory. -/
theorem writeWord_cases (s : State) (a v : Word) :
    (timerWordAt s.cfg a = none ∧ s.writeWord a v = s.storeRamWord a v) ∨
    (timerWordAt s.cfg a ≠ none ∧ (s.writeWord a v).mem = s.mem ∧ (s.writeWord a v).stored = s.stored) := by
  unfold State.writeWord
  cases h : timerWordAt s.cfg a with
  | none => exact .inl ⟨rfl, rfl⟩
  | some w => cases w <;> exact .inr ⟨by simp, rfl, rfl⟩

/-! ### CSR instructions -/

/-- Everything a CSR instruction can do (R235): the illegal-instruction exception, a stop at a CSR outside the spec, or the
whole read-modify-write. -/
theorem execCsr_cases (s : State) (op : CsrOp) (rd : Reg) (a : CsrAddr) (writes : Bool) (src : Word) :
    (s.execCsr op rd a writes src = .next (s.raise .illegalInstruction) ∧
      (lookupCsr s.cfg a = .absent ∨ (writes = true ∧ csrReadOnly a = true))) ∨
    (∃ r, s.execCsr op rd a writes src = .refused r ∧ lookupCsr s.cfg a = .outside r) ∨
    (∃ c, lookupCsr s.cfg a = .present c ∧ (writes = true → csrReadOnly a = false) ∧
      s.execCsr op rd a writes src =
        .next (((s.csrCommit c writes (op.combine (s.csrRead c) src)).setX rd (s.csrRead c)).csrRetire c writes)) := by
  unfold State.execCsr
  cases h : lookupCsr s.cfg a with
  | absent => exact .inl ⟨rfl, .inl rfl⟩
  | outside r => exact .inr (.inl ⟨r, rfl, rfl⟩)
  | present c =>
    cases hw : writes <;> cases hr : csrReadOnly a <;> simp

/-- A present CSR, and a write only where the address allows it: the read-modify-write. -/
theorem execCsr_present {s : State} {a : CsrAddr} {c : Csr} {writes : Bool} (h : lookupCsr s.cfg a = .present c)
    (hw : writes = true → csrReadOnly a = false) (op : CsrOp) (rd : Reg) (src : Word) :
    s.execCsr op rd a writes src =
      .next (((s.csrCommit c writes (op.combine (s.csrRead c) src)).setX rd (s.csrRead c)).csrRetire c writes) := by
  unfold State.execCsr
  rw [h]
  cases writes with
  | true => simp [hw rfl]
  | false => simp

/-! ### Instruction fetch -/

/-- Everything a fetch can answer (R130): a parcel where IALIGN = 16 and it is a 16-bit instruction, an access fault, a stop,
or the second half. -/
theorem fetch_cases (s : State) :
    (s.fetch = .trap .instructionAccessFault ∧ s.parcelAllowed s.pc = false) ∨
    (∃ r, s.fetch = .refuse r ∧ s.parcelRefusal s.pc = some r) ∨
    (s.fetch = .bits (.parcel (s.parcelAt s.pc)) ∧ isCompressed (s.parcelAt s.pc) = true ∧ s.cfg.extC = true) ∨
    (s.fetch = s.fetchSecond (s.parcelAt s.pc)) := by
  unfold State.fetch
  cases h : s.parcelAllowed s.pc with
  | false => simp
  | true =>
    cases h2 : s.parcelRefusal s.pc with
    | some r => simp
    | none =>
      cases h3 : isCompressed (s.parcelAt s.pc) <;> cases h4 : s.cfg.extC <;> simp

/-- Every exception of a fetch is the instruction access fault (R130). -/
theorem fetch_trap {s : State} {e : Exception} (h : s.fetch = .trap e) : e = .instructionAccessFault := by
  unfold State.fetch at h
  split at h
  · cases h; rfl
  · split at h
    · cases h
    · split at h
      · cases h
      · unfold State.fetchSecond at h
        split at h
        · cases h
        · split at h
          · cases h; rfl
          · split at h
            · cases h
            · split at h <;> cases h

/-! ### The boundary -/

/-- The event at a boundary: an NMI first, then a maskable interrupt, else none (R313). -/
theorem takeEvent_cases (s : State) :
    (∃ v, s.nmiDue = some v ∧ s.takeEvent = some (s.nmiEntry v)) ∨
    (∃ i, s.nmiDue = none ∧ s.interruptDue = some i ∧ s.takeEvent = some (s.interruptEntry i)) ∨
    (s.nmiDue = none ∧ s.interruptDue = none ∧ s.takeEvent = none) := by
  unfold State.takeEvent
  cases h : s.nmiDue with
  | some v => simp
  | none => cases h2 : s.interruptDue <;> simp

/-- An interrupt that is due is enabled and pending, and interrupts are enabled. -/
theorem interruptDue_some {s : State} {i : Interrupt} (h : s.interruptDue = some i) :
    s.takeable = true ∧ s.irqDelay = 0 ∧
      i = if s.mieMeie && s.extIrq then .machineExternal else .machineTimer := by
  unfold State.interruptDue at h
  split at h
  · rename_i hc
    simp only [Bool.and_eq_true, decide_eq_true_eq] at hc
    refine ⟨hc.1, hc.2, ?_⟩
    split at h <;> rename_i hx <;> simp only [Option.some.injEq] at h <;> simp [hx, ← h]
  · cases h

/-- Everything the instruction at `pc` can come to: it executes, with every register it names in the file, or the
illegal-instruction or the access-fault exception is raised. -/
theorem runInstruction_next {s t : State} (h : s.runInstruction = .next t) :
    (∃ raw i, s.fetch = .bits raw ∧ decodeRaw raw = .instr i ∧ registersExist s.cfg i = true ∧ exec i s = .next t) ∨
    t = s.raise .illegalInstruction ∨ t = s.raise .instructionAccessFault := by
  unfold State.runInstruction at h
  cases hf : s.fetch with
  | trap e =>
    rw [hf] at h
    have := fetch_trap hf
    subst this
    simp only [Host.Outcome.next.injEq] at h
    exact .inr (.inr h.symm)
  | refuse r => rw [hf] at h; cases h
  | bits raw =>
    rw [hf] at h
    dsimp only at h
    cases hd : decodeRaw raw with
    | instr i =>
      rw [hd] at h
      simp only [State.runDecoded] at h
      split at h
      · rename_i hr; exact .inl ⟨raw, i, rfl, hd, hr, h⟩
      · simp only [Host.Outcome.next.injEq] at h; exact .inr (.inl h.symm)
    | reject e =>
      rw [hd] at h
      refine .inr (.inl ?_)
      cases e <;> simp only [State.runDecoded, Host.Outcome.next.injEq] at h <;>
        first
        | exact h.symm
        | (exfalso; cases h)
        | (split at h
           · cases h
           · simp only [Host.Outcome.next.injEq] at h; exact h.symm)

/-- What a stalled boundary comes to. -/
theorem stalledBoundary_cases (s : State) :
    (s.wakes = false ∧ s.stalledBoundary = s) ∨
    (s.wakes = true ∧ s.wfiComplete.takeEvent = none ∧ s.stalledBoundary = s.wfiComplete) ∨
    (∃ u, s.wakes = true ∧ s.wfiComplete.takeEvent = some u ∧ s.stalledBoundary = u) := by
  unfold State.stalledBoundary
  cases h : s.wakes with
  | false => simp
  | true => cases h2 : s.wfiComplete.takeEvent <;> simp

/-- Everything a step that answers a next state can be, before the platform's tick. -/
theorem step_next {s t : State} (h : step s = .next t) :
    ∃ u, t = u.tick ∧
      ((s.wfiStalled = true ∧ u = s.stalledBoundary) ∨
       (s.wfiStalled = false ∧ s.takeEvent = some u) ∨
       (s.wfiStalled = false ∧ s.takeEvent = none ∧ s.runInstruction = .next u)) := by
  unfold step State.runBoundary at h
  cases hs : s.wfiStalled with
  | true =>
    rw [hs] at h
    simp only [if_true, Host.Outcome.next.injEq] at h
    exact ⟨_, h.symm, .inl ⟨rfl, rfl⟩⟩
  | false =>
    rw [hs] at h
    simp only [Bool.false_eq_true, if_false] at h
    cases he : s.takeEvent with
    | some u =>
      rw [he] at h
      simp only [Host.Outcome.next.injEq] at h
      exact ⟨u, h.symm, .inr (.inl ⟨rfl, rfl⟩)⟩
    | none =>
      rw [he] at h
      cases hr : s.runInstruction with
      | next u =>
        rw [hr] at h
        simp only [Result.tick, Host.Outcome.next.injEq] at h
        exact ⟨u, h.symm, .inr (.inr ⟨rfl, rfl, rfl⟩)⟩
      | fault f => rw [hr] at h; cases h
      | refused r => rw [hr] at h; cases h

/-- A step where no event comes first is the instruction at `pc`, then the platform's tick. -/
theorem step_noEvent {s : State} (h1 : s.wfiStalled = false) (h2 : s.takeEvent = none) :
    step s = s.runInstruction.tick := by
  simp [step, State.runBoundary, h1, h2]

end Sys2Proof.Machine
end

