-- ==== Sys2Proof/Laws/Csr.lean ====
section
/-! SUPPORT. The CSR file: which registers the address map can answer, and the halves of the counters. -/

namespace Sys2Proof.Machine

/-- A present CSR is the one at its address. -/
theorem lookupCsr_present {cfg : Config.Params} {a : CsrAddr} {c : Csr} (h : lookupCsr cfg a = .present c) :
    csrAt a = some c := by
  unfold lookupCsr at h
  split at h <;> (try (split at h)) <;> first | (cases h; assumption) | (cases h)

/-- Read-only by address is 0xC00 and above (R100). -/
theorem csrReadOnly_iff (a : CsrAddr) : csrReadOnly a = true ↔ 0xC00 ≤ a.toNat := by
  have := a.isLt
  simp only [csrReadOnly, beq_iff_eq, ← BitVec.toNat_inj, BitVec.extractLsb'_toNat, Nat.shiftRight_eq_div_pow,
    BitVec.toNat_ofNat]
  omega

/-- The shadows of the counters lie among the read-only addresses. -/
theorem storageOf_csrAt : ∀ a : CsrAddr, ∀ c, csrAt a = some c → a.toNat < 0xC00 → Safety.storageOf c = c := by
  have key : ∀ a : CsrAddr,
      (csrAt a).all (fun c => decide (0xC00 ≤ a.toNat) || decide (Safety.storageOf c = c)) = true := by decide +kernel
  intro a c h hlt
  have := key a
  rw [h] at this
  simpa [Nat.not_le.mpr hlt] using this

/-- Where the registers are on which the interrupt conditions depend: not among the read-only addresses. -/
theorem interruptCsr_writable : ∀ a : CsrAddr, ∀ c, csrAt a = some c → c.inInterruptCondition = true → csrReadOnly a = false := by
  have key : ∀ a : CsrAddr, (csrAt a).all (fun c => !c.inInterruptCondition || !csrReadOnly a) = true := by decide +kernel
  intro a c h hc
  have := key a
  rw [h] at this
  simpa [hc] using this

theorem lowHalf_withLowHalf (d : Dword) (v : Word) : lowHalf (withLowHalf d v) = v := by
  have := v.isLt
  apply BitVec.eq_of_toNat_eq
  simp only [lowHalf, withLowHalf, BitVec.extractLsb'_toNat, toNat_cat, Nat.shiftRight_eq_div_pow]
  omega

theorem highHalf_withHighHalf (d : Dword) (v : Word) : highHalf (withHighHalf d v) = v := by
  have := v.isLt
  apply BitVec.eq_of_toNat_eq
  simp only [lowHalf, withHighHalf, highHalf, BitVec.extractLsb'_toNat, toNat_cat, Nat.shiftRight_eq_div_pow]
  omega

theorem highHalf_withLowHalf (d : Dword) (v : Word) : highHalf (withLowHalf d v) = highHalf d := by
  have := v.isLt
  have := d.isLt
  apply BitVec.eq_of_toNat_eq
  simp only [withLowHalf, highHalf, BitVec.extractLsb'_toNat, toNat_cat, Nat.shiftRight_eq_div_pow]
  omega

theorem lowHalf_withHighHalf (d : Dword) (v : Word) : lowHalf (withHighHalf d v) = lowHalf d := by
  have := v.isLt
  have := d.isLt
  apply BitVec.eq_of_toNat_eq
  simp only [lowHalf, withHighHalf, BitVec.extractLsb'_toNat, toNat_cat, Nat.shiftRight_eq_div_pow]
  omega

/-- Everything a write to a `pmpcfg` register does to the eight configuration bytes. -/
theorem writePmpcfg_getElem (s : State) (n : Nat) (h : n < 2) (v : Word) (i : Fin 8) :
    (s.writePmpcfg n h v).pmpcfg[i] =
      if i.val / 4 = n then pmpCfgAfterWrite s.pmpcfg[i] (v.extractLsb' (8 * (i.val % 4)) 8) else s.pmpcfg[i] := by
  simp only [State.writePmpcfg]
  have : n = 0 ∨ n = 1 := by omega
  rcases this with rfl | rfl <;> fin_cases i <;> simp

/-- Everything a write to a `pmpaddr` register does to the eight address registers. -/
theorem writePmpaddr_getElem (s : State) (n : Nat) (h : n < 8) (v : Word) (i : Fin 8) :
    (s.writePmpaddr n h v).pmpaddr[i] =
      if s.pmpaddrLocked n h = false ∧ n = i.val then pmpaddrLegal v else s.pmpaddr[i] := by
  unfold State.writePmpaddr
  cases hl : s.pmpaddrLocked n h with
  | true => simp
  | false => simp [Vector.getElem_set]

end Sys2Proof.Machine
end

