-- ==== Sys2Proof/Laws/Exec.lean ====
section
/-! SUPPORT. What the execution of an instruction can do, said once over all constructors; what a step can do, said once over
that; the timer window of a word. -/

namespace Sys2Proof.Machine

/-- A next state of `exec` has one of seven shapes. -/
inductive ExecShape (i : Instr) (s t : State) : Prop
  /-- A synchronous exception. -/
  | trap (e : Exception) (h : t = s.raise e)
  /-- At most a general register written, and control at `target`. -/
  | compute (rd : Reg) (v target : Word) (hp : ialigned s.cfg s.pc = true → ialigned s.cfg target = true)
      (h : t = (s.setX rd v).retireTo target)
  /-- MRET. -/
  | ret (hi : i = .mret) (h : t = s.trapReturn)
  /-- WFI, stalling. -/
  | stall (hi : i = .wfi) (h : t = { s with wfiStalled := true })
  /-- WFI, completing. -/
  | wake (hi : i = .wfi) (h : t = s.wfiComplete)
  /-- SW. -/
  | store (a v : Word) (hc : s.checkAccess a 4 .write = .allowed) (h : t = (s.writeWord a v).retire)
  /-- FENCE.I. -/
  | fenceI (h : t = { s with stored := [] }.retire)
  /-- A CSR instruction. -/
  | csr (hi : Safety.isCsrInstr i = true) (c : Csr) (writes : Bool) (v : Word) (rd : Reg)
      (h : t = ((s.csrCommit c writes v).setX rd (s.csrRead c)).csrRetire c writes)

theorem ialigned_add_four {cfg : Config.Params} {a : Word} (h : ialigned cfg a = true) :
    ialigned cfg (a + 4#32) = true := by
  unfold ialigned at h ⊢
  split
  · rename_i hc
    simp only [hc, if_true, beq_iff_eq] at h
    simp only [beq_iff_eq]
    have := congrArg BitVec.toNat h
    apply BitVec.eq_of_toNat_eq
    simp only [BitVec.extractLsb'_toNat, BitVec.toNat_add, BitVec.toNat_ofNat, Nat.shiftRight_zero] at this ⊢
    omega
  · rename_i hc
    simp only [hc, Bool.false_eq_true, if_false, beq_iff_eq] at h
    simp only [beq_iff_eq]
    have := congrArg BitVec.toNat h
    apply BitVec.eq_of_toNat_eq
    simp only [BitVec.extractLsb'_toNat, BitVec.toNat_add, BitVec.toNat_ofNat, Nat.shiftRight_zero] at this ⊢
    omega

theorem execShape_retire {i : Instr} {s : State} (rd : Reg) (v : Word) : ExecShape i s (s.setX rd v).retire :=
  .compute rd v (s.pc + 4#32) ialigned_add_four (by simp [State.retire])

theorem execShape_jumpTo {i : Instr} (s : State) (target : Word) (link : Reg) (ret : Word) :
    ExecShape i s (s.jumpTo target link ret) := by
  rcases jumpTo_cases s target link ret with ⟨ha, h⟩ | ⟨_, h⟩
  · exact .compute link ret target (fun _ => ha) h
  · exact .trap _ h

theorem execShape_csr {i : Instr} {s t : State} (hi : Safety.isCsrInstr i = true) {op : CsrOp} {rd : Reg} {a : CsrAddr}
    {writes : Bool} {src : Word} (h : s.execCsr op rd a writes src = .next t) : ExecShape i s t := by
  rcases execCsr_cases s op rd a writes src with ⟨e, _⟩ | ⟨r, e, _⟩ | ⟨c, _, _, e⟩
  · rw [e] at h; cases h; exact .trap _ rfl
  · rw [e] at h; cases h
  · rw [e] at h; cases h; exact .csr hi c writes _ rd rfl

/-- Everything the execution of an instruction can do, where it answers a next state. -/
theorem exec_shape {i : Instr} {s t : State} (h : exec i s = .next t) : ExecShape i s t := by
  cases i with
  | csrrw => exact execShape_csr rfl h
  | csrrs => exact execShape_csr rfl h
  | csrrc => exact execShape_csr rfl h
  | csrrwi => exact execShape_csr rfl h
  | csrrsi => exact execShape_csr rfl h
  | csrrci => exact execShape_csr rfl h
  | mret => cases h; exact .ret rfl rfl
  | wfi =>
    simp only [exec, execWfi, Host.Outcome.next.injEq] at h
    split at h
    · exact .stall rfl h.symm
    · exact .wake rfl h.symm
  | lui rd => cases h; exact execShape_retire rd _
  | auipc rd => cases h; exact execShape_retire rd _
  | addi rd => cases h; exact execShape_retire rd _
  | fence => cases h; simpa using execShape_retire (i := .fence _ _ _ _ _) (s := s) 0#5 0#32
  | fenceI => cases h; exact .fenceI rfl
  | lw rd rs1 imm =>
    simp only [exec, execLw] at h
    split at h <;> cases h
    · exact .trap _ rfl
    · exact .trap _ rfl
    · exact execShape_retire rd _
  | sw rs2 rs1 imm =>
    simp only [exec, execSw] at h
    split at h <;> cases h
    · exact .trap _ rfl
    · exact .trap _ rfl
    · rename_i hc; exact .store _ _ hc rfl
  | jal => cases h; exact execShape_jumpTo s _ _ _
  | bne rs1 rs2 off =>
    simp only [exec, execBne, Host.Outcome.next.injEq] at h
    split at h <;> subst h
    · exact execShape_jumpTo s _ _ _
    · simpa using execShape_retire (i := .bne _ _ _) (s := s) 0#5 0#32
  | ecall => cases h; exact .trap _ rfl
  | ebreak => cases h; exact .trap _ rfl
  | sret => cases h; exact .trap _ rfl
  | cEbreak => cases h; exact .trap _ rfl
  | mnret => cases h; exact .trap _ rfl
  | dret => cases h; exact .trap _ rfl
  | sfenceVma => cases h; exact .trap _ rfl
  | sinvalVma => cases h; exact .trap _ rfl
  | sfenceWInval => cases h; exact .trap _ rfl
  | sfenceInvalIr => cases h; exact .trap _ rfl
  | hfenceVvma => cases h; exact .trap _ rfl
  | hfenceGvma => cases h; exact .trap _ rfl
  | hinvalVvma => cases h; exact .trap _ rfl
  | hinvalGvma => cases h; exact .trap _ rfl
  | sctrclr => cases h; exact .trap _ rfl
  | hlvHsv => cases h; exact .trap _ rfl

/-! ### Steps -/

/-- No event comes first exactly where the hart is not stalled and takes none. -/
theorem noEvent_iff (s : State) : Safety.NoEvent s ↔ s.wfiStalled = false ∧ s.takeEvent = none := by
  refine ⟨fun h => ⟨h.notStalled, by simp [State.takeEvent, h.noNmi, h.noInterrupt]⟩, fun ⟨h1, h2⟩ => ?_⟩
  rcases takeEvent_cases s with ⟨v, _, e⟩ | ⟨i, _, _, e⟩ | ⟨hn, hi, _⟩
  · rw [e] at h2; cases h2
  · rw [e] at h2; cases h2
  · exact ⟨h1, hn, hi⟩

/-- A next state of `step`, before the platform's tick: a boundary of a stalled hart, an event, an instruction that runs, or
one of the two exceptions raised before any instruction executes. -/
inductive StepShape (s u : State) : Prop
  | stalled (hs : s.wfiStalled = true) (h : u = s.stalledBoundary)
  | event (hs : s.wfiStalled = false) (h : s.takeEvent = some u)
  | instr (i : Instr) (hr : Safety.RunsAt s i) (hx : exec i s = .next u) (h : ExecShape i s u)
  | trap (e : Exception) (he : e = .illegalInstruction ∨ e = .instructionAccessFault) (h : u = s.raise e)

/-- Everything a step can do, where it answers a next state. -/
theorem step_shape {s t : State} (h : step s = .next t) : ∃ u, t = u.tick ∧ StepShape s u := by
  obtain ⟨u, rfl, ⟨hs, h⟩ | ⟨hs, h⟩ | ⟨hs, he, h⟩⟩ := step_next h
  · exact ⟨u, rfl, .stalled hs h⟩
  · exact ⟨u, rfl, .event hs h⟩
  · rcases runInstruction_next h with ⟨raw, i, hf, hd, hr, hx⟩ | h | h
    · exact ⟨u, rfl, .instr i ⟨(noEvent_iff s).mpr ⟨hs, he⟩, ⟨raw, hf, hd⟩, hr⟩ hx (exec_shape hx)⟩
    · exact ⟨u, rfl, .trap _ (.inl rfl) h⟩
    · exact ⟨u, rfl, .trap _ (.inr rfl) h⟩

/-! ### The timer window -/

/-- The executable test of the timer window, at a word, is the one the claims are stated in. -/
theorem touchesTimer_word (cfg : Config.Params) (a : Word) :
    touchesTimer cfg a 4 = true ↔ Safety.TouchesTimer cfg a := by
  simp [touchesTimer, Safety.TouchesTimer, Safety.TimerByte, byteAddress, List.range_succ, or_assoc]

end Sys2Proof.Machine
end

