-- ==== Sys2Proof/Laws/PerInstr.lean ====
section
/-! SUPPORT. The per-instruction family `ParcelLength`: the low bits of the first parcel of an encoding say how many parcels it
has (R204), and the word, where it has two, is the encoding's. -/

namespace Sys2Proof

/-- The first parcel of the encoding of `i` has low bits other than 11 exactly if it is the only one, and then no second parcel
follows; `ilen` counts the bytes (R12, R204). -/
def Laws.ParcelLength.Statement (i : Instr) : Prop :=
  ∃ p rest, encode i = p :: rest ∧ isCompressed p = rest.isEmpty ∧ (encodeRaw i).ilen = 2 * (rest.length + 1)

/-- A 32-bit encoding has the length its first parcel says. -/
theorem parcelLength_word {i : Instr} {w : Word} (h : encodeRaw i = .word w)
    (hw : (opcodeOf w).extractLsb' 0 2 = 0b11#2) : Laws.ParcelLength.Statement i := by
  refine ⟨w.extractLsb' 0 16, [w.extractLsb' 16 16], by simp [encode, h, RawInstr.parcels], ?_, by simp [h, RawInstr.ilen]⟩
  rw [isCompressed, low_bits_of_word, hw]
  rfl

theorem Laws.ParcelLength.csrrw : ∀ rd csr rs1, Laws.ParcelLength.Statement (.csrrw rd csr rs1) :=
  fun _ _ _ => parcelLength_word rfl (by rw [opcodeOf_encodeI]; rfl)
theorem Laws.ParcelLength.csrrs : ∀ rd csr rs1, Laws.ParcelLength.Statement (.csrrs rd csr rs1) :=
  fun _ _ _ => parcelLength_word rfl (by rw [opcodeOf_encodeI]; rfl)
theorem Laws.ParcelLength.csrrc : ∀ rd csr rs1, Laws.ParcelLength.Statement (.csrrc rd csr rs1) :=
  fun _ _ _ => parcelLength_word rfl (by rw [opcodeOf_encodeI]; rfl)
theorem Laws.ParcelLength.csrrwi : ∀ rd csr uimm, Laws.ParcelLength.Statement (.csrrwi rd csr uimm) :=
  fun _ _ _ => parcelLength_word rfl (by rw [opcodeOf_encodeI]; rfl)
theorem Laws.ParcelLength.csrrsi : ∀ rd csr uimm, Laws.ParcelLength.Statement (.csrrsi rd csr uimm) :=
  fun _ _ _ => parcelLength_word rfl (by rw [opcodeOf_encodeI]; rfl)
theorem Laws.ParcelLength.csrrci : ∀ rd csr uimm, Laws.ParcelLength.Statement (.csrrci rd csr uimm) :=
  fun _ _ _ => parcelLength_word rfl (by rw [opcodeOf_encodeI]; rfl)
theorem Laws.ParcelLength.ecall : Laws.ParcelLength.Statement .ecall :=
  parcelLength_word rfl rfl
theorem Laws.ParcelLength.ebreak : Laws.ParcelLength.Statement .ebreak :=
  parcelLength_word rfl rfl
theorem Laws.ParcelLength.mret : Laws.ParcelLength.Statement .mret :=
  parcelLength_word rfl rfl
theorem Laws.ParcelLength.sret : Laws.ParcelLength.Statement .sret :=
  parcelLength_word rfl rfl
theorem Laws.ParcelLength.wfi : Laws.ParcelLength.Statement .wfi :=
  parcelLength_word rfl rfl
theorem Laws.ParcelLength.cEbreak : Laws.ParcelLength.Statement .cEbreak :=
  ⟨0x9002#16, [], rfl, rfl, rfl⟩
theorem Laws.ParcelLength.mnret : Laws.ParcelLength.Statement .mnret :=
  parcelLength_word rfl rfl
theorem Laws.ParcelLength.dret : Laws.ParcelLength.Statement .dret :=
  parcelLength_word rfl rfl
theorem Laws.ParcelLength.sfenceVma : ∀ rs1 rs2, Laws.ParcelLength.Statement (.sfenceVma rs1 rs2) :=
  fun _ _ => parcelLength_word rfl (by rw [opcodeOf_encodeR]; rfl)
theorem Laws.ParcelLength.sinvalVma : ∀ rs1 rs2, Laws.ParcelLength.Statement (.sinvalVma rs1 rs2) :=
  fun _ _ => parcelLength_word rfl (by rw [opcodeOf_encodeR]; rfl)
theorem Laws.ParcelLength.sfenceWInval : Laws.ParcelLength.Statement .sfenceWInval :=
  parcelLength_word rfl rfl
theorem Laws.ParcelLength.sfenceInvalIr : Laws.ParcelLength.Statement .sfenceInvalIr :=
  parcelLength_word rfl rfl
theorem Laws.ParcelLength.hfenceVvma : ∀ rs1 rs2, Laws.ParcelLength.Statement (.hfenceVvma rs1 rs2) :=
  fun _ _ => parcelLength_word rfl (by rw [opcodeOf_encodeR]; rfl)
theorem Laws.ParcelLength.hfenceGvma : ∀ rs1 rs2, Laws.ParcelLength.Statement (.hfenceGvma rs1 rs2) :=
  fun _ _ => parcelLength_word rfl (by rw [opcodeOf_encodeR]; rfl)
theorem Laws.ParcelLength.hinvalVvma : ∀ rs1 rs2, Laws.ParcelLength.Statement (.hinvalVvma rs1 rs2) :=
  fun _ _ => parcelLength_word rfl (by rw [opcodeOf_encodeR]; rfl)
theorem Laws.ParcelLength.hinvalGvma : ∀ rs1 rs2, Laws.ParcelLength.Statement (.hinvalGvma rs1 rs2) :=
  fun _ _ => parcelLength_word rfl (by rw [opcodeOf_encodeR]; rfl)
theorem Laws.ParcelLength.sctrclr : Laws.ParcelLength.Statement .sctrclr :=
  parcelLength_word rfl rfl
theorem Laws.ParcelLength.hlvHsv : ∀ f7 rs2 rs1 rd, Laws.ParcelLength.Statement (.hlvHsv f7 rs2 rs1 rd) :=
  fun _ _ _ _ => parcelLength_word rfl (by rw [opcodeOf_encodeR]; rfl)
theorem Laws.ParcelLength.lui : ∀ rd imm, Laws.ParcelLength.Statement (.lui rd imm) :=
  fun _ _ => parcelLength_word rfl (by rw [opcodeOf_encodeU]; rfl)
theorem Laws.ParcelLength.auipc : ∀ rd imm, Laws.ParcelLength.Statement (.auipc rd imm) :=
  fun _ _ => parcelLength_word rfl (by rw [opcodeOf_encodeU]; rfl)
theorem Laws.ParcelLength.addi : ∀ rd rs1 imm, Laws.ParcelLength.Statement (.addi rd rs1 imm) :=
  fun _ _ _ => parcelLength_word rfl (by rw [opcodeOf_encodeI]; rfl)
theorem Laws.ParcelLength.lw : ∀ rd rs1 imm, Laws.ParcelLength.Statement (.lw rd rs1 imm) :=
  fun _ _ _ => parcelLength_word rfl (by rw [opcodeOf_encodeI]; rfl)
theorem Laws.ParcelLength.sw : ∀ rs2 rs1 imm, Laws.ParcelLength.Statement (.sw rs2 rs1 imm) :=
  fun _ _ _ => parcelLength_word rfl (by rw [opcodeOf_encodeS]; rfl)
theorem Laws.ParcelLength.fence : ∀ rd rs1 fm pred succ, Laws.ParcelLength.Statement (.fence rd rs1 fm pred succ) :=
  fun _ _ _ _ _ => parcelLength_word rfl (by rw [opcodeOf_encodeI]; rfl)
theorem Laws.ParcelLength.fenceI : ∀ rd rs1 imm, Laws.ParcelLength.Statement (.fenceI rd rs1 imm) :=
  fun _ _ _ => parcelLength_word rfl (by rw [opcodeOf_encodeI]; rfl)
theorem Laws.ParcelLength.jal : ∀ rd off, Laws.ParcelLength.Statement (.jal rd off) :=
  fun _ _ => parcelLength_word rfl (by rw [opcodeOf_encodeJ]; rfl)
theorem Laws.ParcelLength.bne : ∀ rs1 rs2 off, Laws.ParcelLength.Statement (.bne rs1 rs2 off) :=
  fun _ _ _ => parcelLength_word rfl (by rw [opcodeOf_encodeB]; rfl)

end Sys2Proof
end

