-- ==== Sys2Proof/Tests/Slice0.lean ====
section
/-! SUPPORT. The model's own tests: the well-formedness smoke, decoding of words taken from the spec, one step of each instruction
on the vectors of spec/95_test_vectors.md ("V95" below), and for every obligation with hypotheses a state and
operands that meet them. -/

namespace Sys2Proof.Tests

open Sys2Proof.Machine
open Sys2Proof.Safety

set_option maxRecDepth 4000

/-! ### Helpers -/

/-- The outcome is a next state with this property. -/
def reaches (r : Result) (p : State → Bool) : Bool :=
  match r with
  | .next t => p t
  | .fault _ => false
  | .refused _ => false

theorem exists_next {r : Result} {p : State → Bool} (h : reaches r p = true) : ∃ t, r = .next t ∧ p t = true := by
  cases r with
  | next t => exact ⟨t, rfl, h⟩
  | fault f => cases h
  | refused e => cases h

/-- The outcome is this refusal. -/
def stops (r : Result) (e : Refusal) : Bool :=
  match r with
  | .next _ => false
  | .fault _ => false
  | .refused e' => e' == e

/-- Draws under which the platform does as little as it may. -/
def quiet : Config.Draw where
  mtimeTicks := 0
  mtimeWait := 0
  cycles := 0
  extIrq := false
  nmi := false
  mtipDelay := 0
  irqDelay := 0
  wfiStall := false
  wfiWake := false
  nmiMie := false
  nmiMpie := false
  fetchSplit := false
  dataSplit := false

/-- The start state of V95: `pc` = 0x80000100, `mtvec` = 0x80000200, interrupts off. -/
def start : State := { State.reset with pc := 0x80000100#32, mtvecBase := 0x20000080#30, trace := [quiet, quiet] }

/-- One step of `s` on the instruction word `w` gives a next state with this property. -/
def after (s : State) (w : Nat) (p : State → Bool) : Bool := reaches (step (s.withFetchWord 32 w)) p

/-- The machine trapped with this cause from `epc`, as V95 abbreviates it. -/
def trapped (cause epc : Word) (t : State) : Bool :=
  t.mcause == cause && t.mepc == epc && t.pc == t.mtvecBase ++ 0#2 && t.mstatusMie == false && t.minstret == 0#64

/-- The instruction retired to `pc + 4`. -/
def retired (t : State) : Bool := t.pc == 0x80000104#32 && t.minstret == 1#64

/-- Entry 0 off below 0x80001000, entry 1 locked TOR up to 0x80002000 with these permissions (V95 PM6, PM10, P3). -/
def lockedRegion (cfg : Byte) : State :=
  { start with
    pmpcfg := #v[0x00#8, cfg, 0#8, 0#8, 0#8, 0#8, 0#8, 0#8]
    pmpaddr := #v[0x20000400#32, 0x20000800#32, 0#32, 0#32, 0#32, 0#32, 0#32, 0#32] }

/-- The parameters with IALIGN = 32. -/
def wideCfg : Config.Params := { Config.Params.atReset with extC := false }

/-- The parameters of the E base. -/
def embeddedCfg : Config.Params := { Config.Params.atReset with baseE := true }

/-- The parameters with an NMI input. -/
def nmiCfg : Config.Params := { Config.Params.atReset with nmi := some 0x80000F00#32 }

/-! ### WellFormed: an ill-formed term for each check -/

theorem test_jal_odd_offset_refused : (Instr.jal 1#5 17#21).wellFormed = false := by decide
theorem test_jal_even_offset_accepted : (Instr.jal 1#5 16#21).wellFormed = true := by decide
theorem test_bne_odd_offset_refused : (Instr.bne 5#5 0#5 3#13).wellFormed = false := by decide
theorem test_bne_even_offset_accepted : (Instr.bne 5#5 0#5 0x1FFC#13).wellFormed = true := by decide

/-! ### Decoding: every constructor from a word of the spec (V95, and R206, R236 to R241, R274 to R282) -/

theorem test_decode_csrrw : decodeTableWord 32 0x340312F3 = some (.csrrw 5#5 0x340#12 6#5) := by decide
theorem test_decode_csrrs : decodeTableWord 32 0x34202573 = some (.csrrs 10#5 0x342#12 0#5) := by decide
theorem test_decode_csrrc : decodeTableWord 32 0x3042B073 = some (.csrrc 0#5 0x304#12 5#5) := by decide
theorem test_decode_csrrwi : decodeTableWord 32 0x342FD2F3 = some (.csrrwi 5#5 0x342#12 31#5) := by decide
theorem test_decode_csrrsi : decodeTableWord 32 0x30046073 = some (.csrrsi 0#5 0x300#12 8#5) := by decide
theorem test_decode_csrrci : decodeTableWord 32 0x300473F3 = some (.csrrci 7#5 0x300#12 8#5) := by decide
theorem test_decode_ecall : decodeTableWord 32 0x00000073 = some .ecall := by decide
theorem test_decode_ebreak : decodeTableWord 32 0x00100073 = some .ebreak := by decide
theorem test_decode_mret : decodeTableWord 32 0x30200073 = some .mret := by decide
theorem test_decode_sret : decodeTableWord 32 0x10200073 = some .sret := by decide
theorem test_decode_wfi : decodeTableWord 32 0x10500073 = some .wfi := by decide
theorem test_decode_cEbreak : decodeTableWord 16 0x9002 = some .cEbreak := by decide
theorem test_decode_mnret : decodeTableWord 32 0x70200073 = some .mnret := by decide
theorem test_decode_dret : decodeTableWord 32 0x7B200073 = some .dret := by decide
/-- `rs2` = x3, `rs1` = x17, written bit by bit from R206. -/
theorem test_decode_sfenceVma :
    decodeTableWord 32 0b0001001_00011_10001_000_00000_1110011 = some (.sfenceVma 17#5 3#5) := by decide
theorem test_decode_sinvalVma :
    decodeTableWord 32 0b0001011_00011_10001_000_00000_1110011 = some (.sinvalVma 17#5 3#5) := by decide
theorem test_decode_sfenceWInval : decodeTableWord 32 0x18000073 = some .sfenceWInval := by decide
theorem test_decode_sfenceInvalIr : decodeTableWord 32 0x18100073 = some .sfenceInvalIr := by decide
theorem test_decode_hfenceVvma :
    decodeTableWord 32 0b0010001_00011_10001_000_00000_1110011 = some (.hfenceVvma 17#5 3#5) := by decide
theorem test_decode_hfenceGvma :
    decodeTableWord 32 0b0110001_00011_10001_000_00000_1110011 = some (.hfenceGvma 17#5 3#5) := by decide
theorem test_decode_hinvalVvma :
    decodeTableWord 32 0b0010011_00011_10001_000_00000_1110011 = some (.hinvalVvma 17#5 3#5) := by decide
theorem test_decode_hinvalGvma :
    decodeTableWord 32 0b0110011_00011_10001_000_00000_1110011 = some (.hinvalGvma 17#5 3#5) := by decide
theorem test_decode_sctrclr : decodeTableWord 32 0x10400073 = some .sctrclr := by decide
theorem test_decode_hlvHsv :
    decodeTableWord 32 0b0110100_00011_10001_100_01010_1110011 = some (.hlvHsv 0b0110100#7 3#5 17#5 10#5) := by decide
theorem test_decode_lui : decodeTableWord 32 0x800012B7 = some (.lui 5#5 0x80001#20) := by decide
theorem test_decode_auipc : decodeTableWord 32 0x00001317 = some (.auipc 6#5 1#20) := by decide
theorem test_decode_addi : decodeTableWord 32 0xFFF00293 = some (.addi 5#5 0#5 0xFFF#12) := by decide
theorem test_decode_lw : decodeTableWord 32 0xFFC32383 = some (.lw 7#5 6#5 0xFFC#12) := by decide
theorem test_decode_sw : decodeTableWord 32 0xFE532E23 = some (.sw 5#5 6#5 0xFFC#12) := by decide
theorem test_decode_fence : decodeTableWord 32 0x0330000F = some (.fence 0#5 0#5 0#4 3#4 3#4) := by decide
theorem test_decode_fenceI : decodeTableWord 32 0x0000100F = some (.fenceI 0#5 0#5 0#12) := by decide
theorem test_decode_jal : decodeTableWord 32 0xFF9FF06F = some (.jal 0#5 0x1FFFF8#21) := by decide
theorem test_decode_bne : decodeTableWord 32 0xFE029EE3 = some (.bne 5#5 0#5 0x1FFC#13) := by decide

/-- V95 A5, A6, T2, and R210's zero parcel: words that are no instruction. -/
theorem test_decode_refuses :
    decodeWord 0x00200073#32 = .reject .reservedSystem ∧ decodeWord 0x000000F3#32 = .reject .reservedSystem ∧
    decodeWord 0xFFFFFFFF#32 = .reject .longEncoding ∧ decodeParcel 0x0000#16 = .reject .definedIllegal := by decide
/-- R39, R272: `flw`, `vsetvli`, an OP-VE word, C.FLW and C.FSWSP are floating-point or vector; C.ADDI4SPN and an AMO are neither. -/
theorem test_decode_floatOrVector :
    decodeWord 0x00052007#32 = .reject .floatOrVector ∧ decodeWord 0x0D0572D7#32 = .reject .floatOrVector ∧
    decodeWord 0xA2862077#32 = .reject .floatOrVector ∧ decodeParcel 0x6108#16 = .reject .floatOrVector ∧
    decodeParcel 0xE02A#16 = .reject .floatOrVector ∧ decodeParcel 0x0028#16 = .reject .outsideSpecParcel ∧
    decodeWord 0x00A5A52F#32 = .reject .outsideSpecWord := by decide

/-! ### One step of each instruction -/

/-- V95 Z1. -/
theorem test_csrrw_mscratch :
    after ({ start with mscratch := 0x11111111#32 }.setX 6#5 0x22222222#32) 0x340312F3
      (fun t => t.getX 5#5 == 0x11111111#32 && t.mscratch == 0x22222222#32 && retired t) = true := by decide
/-- V95 Z9: only MIE and MPIE are writable. -/
theorem test_csrrw_mstatus :
    after ({ start with mstatusMie := true }.setX 6#5 0xFFFFFFFF#32) 0x300312F3
      (fun t => t.getX 5#5 == 0x00001808#32 && t.mstatusWord == 0x00001888#32) = true := by decide
/-- V95 Z20: a set form with `rs1` other than `x0` writes, so 0xF11 traps. -/
theorem test_csrrs_read_only : after start 0xF11322F3 (fun t => trapped 2#32 0x80000100#32 t && t.getX 5#5 == 0#32) = true := by
  decide
/-- V95 Z14. -/
theorem test_csrrs_misa : after start 0x301022F3 (fun t => t.getX 5#5 == 0x40001106#32 && retired t) = true := by decide
/-- V95 Z5. -/
theorem test_csrrc_mie :
    after ({ start with mieMeie := true, mieMtie := true }.setX 5#5 0x80#32) 0x3042B073
      (fun t => t.mieWord == 0x00000800#32 && retired t) = true := by decide
/-- V95 PM6: the write to `pmpaddr0` below a locked TOR entry is ignored; `csrrw x13, pmpaddr0, x0`. -/
theorem test_csrrw_pmpaddr_below_locked_tor :
    after (lockedRegion 0x89#8) 0x3B0016F3 (fun t => t.getX 13#5 == 0x20000400#32 && t.pmpaddr[0] == 0x20000400#32) = true := by
  decide
/-- V95 Z12. -/
theorem test_csrrc_reads :
    after { start with mstatusMpie := true } 0x300032F3 (fun t => t.getX 5#5 == 0x00001880#32 && t.mstatusMpie) = true := by
  decide
/-- V95 Z35, first instruction: a write to `minstret` leaves exactly the written value. -/
theorem test_csrrwi_minstret :
    after { start with minstret := 0x0000000700000009#64 } 0xB0205073 (fun t => t.minstret == 0x0000000700000000#64) = true := by
  decide
/-- V95 T5: the trap comes right after the CSRRSI, with `mepc` behind it. -/
theorem test_csrrsi_then_interrupt :
    reaches (Sys2Proof.core.run 2
        ({ start with mieMtie := true, mtipLine := true, mtimecmp := 0#64 }.withFetchWord 32 0x30046073))
      (fun t => t.mcause == 0x80000007#32 && t.mepc == 0x80000104#32 && t.mstatusWord == 0x00001880#32) = true := by decide
/-- V95 Z8. -/
theorem test_csrrci_mstatus :
    after { start with mstatusMie := true, mstatusMpie := true } 0x300473F3
      (fun t => t.getX 7#5 == 0x00001888#32 && t.mstatusWord == 0x00001880#32) = true := by decide
/-- V95 E1. -/
theorem test_ecall :
    after { start with pc := 0x80000010#32, mstatusMie := true } 0x00000073
      (fun t => trapped 0xB#32 0x80000010#32 t && t.mstatusWord == 0x00001880#32) = true := by decide
/-- V95 E2. -/
theorem test_ebreak :
    after { start with pc := 0x80000020#32, mstatusMpie := true } 0x00100073
      (fun t => trapped 3#32 0x80000020#32 t && t.mstatusWord == 0x00001800#32) = true := by decide
/-- V95 E3. -/
theorem test_cEbreak :
    reaches (step ({ start with pc := 0x80000022#32 }.withFetchWord 16 0x9002)) (trapped 3#32 0x80000022#32) = true := by decide
/-- V95 M1. -/
theorem test_mret :
    after { start with mepc := 0x80000014#32, mstatusMpie := true } 0x30200073
      (fun t => t.pc == 0x80000014#32 && t.mstatusWord == 0x00001888#32 && t.minstret == 1#64) = true := by decide
/-- V95 M4. -/
theorem test_mret_clears_mie :
    after { start with mepc := 0x80000300#32, mstatusMie := true } 0x30200073
      (fun t => t.pc == 0x80000300#32 && t.mstatusWord == 0x00001880#32) = true := by decide
/-- V95 S1. -/
theorem test_sret : after { start with pc := 0x80000030#32 } 0x10200073 (trapped 2#32 0x80000030#32) = true := by decide
/-- V95 W1: a WFI that stalls with an interrupt pending and globally disabled goes on. -/
theorem test_wfi_goes_on :
    reaches (Sys2Proof.core.run 2 ({ start with mieMtie := true, mtipLine := true, trace := [{ quiet with wfiStall := true }, quiet] }.withFetchWord
      32 0x10500073)) retired = true := by decide
/-- V95 W2: the interrupt trap of a stalled WFI has `mepc` behind it, and the WFI retires. -/
theorem test_wfi_trap :
    reaches (step { start with mstatusMie := true, mieMtie := true, mtipLine := true, wfiStalled := true })
      (fun t => t.mepc == 0x80000104#32 && t.mcause == 0x80000007#32 && t.minstret == 1#64) = true := by decide
/-- V95 A1 to A4. -/
theorem test_absent_trap :
    ([0x12000073, 0x70200073, 0x7B200073, 0x16000073, 0x18000073, 0x18100073, 0x22000073, 0x62000073, 0x26000073, 0x66000073,
      0x10400073].all (fun w => after start w (trapped 2#32 0x80000100#32))) = true := by decide
/-- R208: the `funct3` = 100 subspace traps. -/
theorem test_hlvHsv_traps : after start 0x68344573 (trapped 2#32 0x80000100#32) = true := by decide
/-- V95 B1. -/
theorem test_lui : after start 0x800012B7 (fun t => t.getX 5#5 == 0x80001000#32 && retired t) = true := by decide
/-- V95 B3. -/
theorem test_auipc :
    after { start with pc := 0x80000008#32 } 0x00001317 (fun t => t.getX 6#5 == 0x80001008#32) = true := by decide
/-- V95 B5: the sum wraps. -/
theorem test_addi_wraps :
    after (start.setX 5#5 0xFFFFFFFF#32) 0x00128293 (fun t => t.getX 5#5 == 0#32 && retired t) = true := by decide
/-- V95 B16: `x0` stays 0. -/
theorem test_addi_x0 : after (start.setX 5#5 7#32) 0x00128013 (fun t => t.getX 0#5 == 0#32) = true := by decide
/-- V95 B8, the bytes of B7 in memory. -/
theorem test_lw_little_endian :
    after { start.setX 6#5 0x80001004#32 with mem := [(0x80001000, 0x44#8), (0x80001001, 0x33#8), (0x80001002, 0x22#8), (0x80001003, 0x11#8)] }
      0xFFC32383 (fun t => t.getX 7#5 == 0x11223344#32 && retired t) = true := by decide
/-- V95 T12: a misaligned load. -/
theorem test_lw_misaligned :
    after (start.setX 8#5 0x80001000#32) 0x00142383 (fun t => trapped 4#32 0x80000100#32 t && t.getX 7#5 == 0#32) = true := by
  decide
/-- R341: an allowed misaligned load of the last byte of `mtime` stops. -/
theorem test_lw_timer_misaligned :
    stops (exec (.lw 7#5 6#5 0#12) (start.setX 6#5 (State.reset.cfg.mtimeAddr + 7#32))) .timerMisaligned = true := by decide
/-- V95 B7. -/
theorem test_sw_little_endian :
    after ((start.setX 6#5 0x80001004#32).setX 5#5 0x11223344#32) 0xFE532E23
      (fun t => t.byteAt 0x80001000#32 == 0x44#8 && t.byteAt 0x80001001#32 == 0x33#8 && t.byteAt 0x80001002#32 == 0x22#8 &&
        t.byteAt 0x80001003#32 == 0x11#8) = true := by decide
/-- V95 V2, trace A, second store: `sw x11, 4(x6)` changes only the high half of `mtimecmp`. -/
theorem test_sw_mtimecmp_high :
    after (({ start with mtimecmp := 0x00000000FFFFFFFF#64 }.setX 6#5 0x02004000#32).setX 11#5 1#32) 0x00B32223
      (fun t => t.mtimecmp == 0x00000001FFFFFFFF#64 && retired t) = true := by decide
/-- V95 B15. -/
theorem test_fence : after start 0x0FF0000F retired = true := by decide
/-- V95 B15, and R143: the marking is empty again. -/
theorem test_fenceI : after { start with stored := [0x10, 0x80001000] } 0x0000100F (fun t => retired t && t.stored == []) = true := by
  decide
/-- V95 B10. -/
theorem test_jal :
    after { start with pc := 0x80000000#32 } 0x010000EF (fun t => t.getX 1#5 == 0x80000004#32 && t.pc == 0x80000010#32) = true := by
  decide
/-- V95 T15, with IALIGN = 32. -/
theorem test_jal_misaligned : after { start with cfg := wideCfg } 0x0020006F (trapped 0#32 0x80000100#32) = true := by decide
/-- V95 B13, taken. -/
theorem test_bne_taken :
    after ({ start with pc := 0x80000024#32 }.setX 5#5 1#32) 0xFE029EE3 (fun t => t.pc == 0x80000020#32) = true := by decide
/-- V95 B14, not taken. -/
theorem test_bne_not_taken : after ((start.setX 5#5 3#32).setX 6#5 3#32) 0x00629463 retired = true := by decide

/-! ### Events, faults, protection -/

/-- V95 T3 and T16: the external interrupt first, and before an illegal word. -/
theorem test_external_first :
    reaches (step { { start with trace := [] }.placeBytes 0x80000100#32 [0#8, 0#8, 0#8, 0#8] with
        mstatusMie := true, mieMeie := true, mieMtie := true, extIrq := true, mtipLine := true })
      (fun t => t.mcause == 0x8000000B#32 && t.mepc == 0x80000100#32 && t.mstatusMpie && !t.mstatusMie) = true := by decide
/-- V95 T17. -/
theorem test_nmi :
    reaches (step { start with cfg := nmiCfg, nmiPending := true })
      (fun t => t.mcause == 0x80000000#32 && t.mepc == 0x80000100#32 && t.pc == 0x80000F00#32) = true := by decide
/-- V95 T1. -/
theorem test_zero_word_traps : after start 0 (trapped 2#32 0x80000100#32) = true := by decide
/-- V95 T9: the timer comparison is unsigned. -/
theorem test_timer_unsigned : timerCondition 0x7FFFFFFFFFFFFFFF#64 0x8000000000000000#64 = false := by decide
/-- V95 PM10: execute-only; loads and stores there trap, one just above does not. -/
theorem test_pmp_execute_only :
    (lockedRegion 0x8C#8).pmpAllows 0x80001000#32 2 .execute = true ∧
    (lockedRegion 0x8C#8).pmpAllows 0x80001FFC#32 4 .read = false ∧
    (lockedRegion 0x8C#8).pmpAllows 0x80002000#32 4 .read = true := by decide
/-- V95 V3 in reachable numbers: an access across the top of an unlocked entry fails. -/
theorem test_pmp_partial_match :
    State.pmpAllows { start with
      pmpcfg := #v[0x0F#8, 0#8, 0#8, 0#8, 0#8, 0#8, 0#8, 0#8]
      pmpaddr := #v[0x20000402#32, 0#32, 0#32, 0#32, 0#32, 0#32, 0#32, 0#32] } 0x80001006#32 4 .read = false := by decide
/-- R106: the CSR addresses that exist whatever the parameters, counted. -/
theorem test_csr_count :
    ((List.range 4096).countP (fun n =>
      match lookupCsr { Config.Params.atReset with hasZicntr := false } (BitVec.ofNat 12 n) with
      | .present _ => true
      | _ => false)) = 186 := by decide +kernel
/-- R9: HAS_TRIGGERS governs the last address of 0x7A0 to 0x7AF as the first. -/
theorem test_trigger_range :
    stops (exec (.csrrs 5#5 0x7AF#12 0#5) { start with cfg := { Config.Params.atReset with hasTriggers := true } })
      .triggerCsr = true := by decide
/-- D21: what is written to `mcycle` is what the next instruction reads, whatever the draw. -/
theorem test_mcycle_write_is_exact :
    reaches (Sys2Proof.core.run 2
        ({ start.setX 6#5 0x100#32 with trace := [{ quiet with cycles := 7 }, quiet] }.placeBytes 0x80000100#32
          [0x73#8, 0x10#8, 0x03#8, 0xB0#8, 0xF3#8, 0x22#8, 0x00#8, 0xB0#8]))
      (fun t => t.getX 5#5 == 0x100#32 && t.minstret == 2#64) = true := by decide
/-- R20: `addi x16, x0, 1` where the file has 16 registers. -/
theorem test_embedded_register_traps :
    after { start with cfg := embeddedCfg } 0x00100813 (trapped 2#32 0x80000100#32) = true := by decide
/-- C.FLW traps (R272). -/
theorem test_compressed_float_traps :
    reaches (step (start.withFetchWord 16 0x6108)) (trapped 2#32 0x80000100#32) = true := by decide
/-- R323: the NMI that ends a WFI stall with MIE drawn set leaves the drawn deferral in force. -/
theorem test_nmi_after_stall_defers :
    reaches (step { start with
        cfg := nmiCfg, nmiPending := true, wfiStalled := true, mieMeie := true
        trace := [{ quiet with nmiMie := true, irqDelay := 3, extIrq := true }] })
      (fun t => t.takeable && t.irqDelay == 3) = true := by decide
theorem test_reset_memory_canonical : Memory.wf State.reset.mem := by decide

/-! ### Witnesses: the hypotheses of each obligation, met together -/

/-- `start` with `csrrw x5, mscratch, x6` at `pc`. -/
def running : State := start.withFetchWord 32 0x340312F3

/-- `start` with an external interrupt pending and enabled, MIE included. -/
def interrupted : State := { start with mstatusMie := true, mieMeie := true, extIrq := true }

/-- DecodeEncodeRoundTrip: the farthest jump and branch, forward and back. -/
theorem test_witness_decodeEncodeRoundTrip :
    (Instr.jal 31#5 0x0FFFFE#21).wellFormed = true ∧ (Instr.jal 31#5 0x100000#21).wellFormed = true ∧
    (Instr.bne 31#5 31#5 0x0FFE#13).wellFormed = true ∧ (Instr.bne 31#5 31#5 0x1000#13).wellFormed = true := by decide
/-- EncodeDecodeRoundTrip. -/
theorem test_witness_encodeDecodeRoundTrip :
    decode [0xB7#8, 0x12#8, 0x00#8, 0x80#8, 0x02#8] = .instr (.lui 5#5 0x80001#20) [0x02#8] ∧
    decode [0x02#8, 0x90#8, 0x13#8] = .instr .cEbreak [0x13#8] := by decide
/-- DecodeFollowsTheOpcodeTable, both clauses. -/
theorem test_witness_decodeFollowsTheOpcodeTable :
    decodeWord 0x30200073#32 = .instr .mret ∧
    (Instr.mret ≠ .cEbreak ∧ 0x30200073#32 &&& (tableRow .mret).2 = (tableRow .mret).1) := by decide
/-- IllegalEncodingsTrap: the word of V95 A5 is under SYSTEM and is no row; `flw` and an OP-VE word; C.FLW and C.FSWSP;
IALIGN = 32. -/
theorem test_witness_illegalEncodingsTrap :
    (opcodeOf 0x00200073#32 = 0b1110011#7 ∧
      ∀ j : Instr, j ≠ .cEbreak → 0x00200073#32 &&& (tableRow j).2 ≠ (tableRow j).1) ∧
    opcodeOf 0x00052007#32 = 0b0000111#7 ∧ opcodeOf 0xA2862077#32 = 0b1110111#7 ∧
    ((0x6108#16 : Parcel).extractLsb' 13 3 = 0b011#3 ∧ (0x6108#16 : Parcel).extractLsb' 0 2 = 0b00#2) ∧
    ((0xE02A#16 : Parcel).extractLsb' 13 3 = 0b111#3 ∧ (0xE02A#16 : Parcel).extractLsb' 0 2 = 0b10#2) ∧
    { start with cfg := wideCfg }.cfg.extC = false :=
  ⟨⟨by decide, fun j _ => by cases j <;> simp [tableRow]⟩, by decide, by decide, by decide, by decide, by decide⟩
/-- StepRunsTheDecodedInstruction: a 32-bit instruction at the last place one fits, with every register it names in the file;
the same bytes naming `x16` under the E base. -/
theorem test_witness_stepRunsTheDecodedInstruction :
    (let s := { start with pc := 0xFFFFFFFC#32, cfg := embeddedCfg }.withFetchWord 32 0x340312F3
     NoEvent s ∧ decode (bytesAtPc s) = .instr (.csrrw 5#5 0x340#12 6#5) [] ∧ ParcelFetchable s s.pc ∧
       SecondParcelFetchable s ∧ ∀ r ∈ namedRegisters (.csrrw 5#5 0x340#12 6#5), r.toNat < 16) ∧
    (let s := { start with cfg := embeddedCfg }.withFetchWord 32 0x00100813
     NoEvent s ∧ decode (bytesAtPc s) = .instr (.addi 16#5 0#5 1#12) [] ∧ ParcelFetchable s s.pc ∧
       SecondParcelFetchable s ∧ s.cfg.baseE = true ∧ ∃ r ∈ namedRegisters (.addi 16#5 0#5 1#12), 16 ≤ r.toNat) :=
  ⟨⟨⟨by decide, by decide, by decide⟩, by decide, ⟨by decide, by decide, by decide⟩,
      ⟨by decide, ⟨by decide, by decide, by decide⟩, by decide⟩, by decide⟩,
    ⟨⟨by decide, by decide, by decide⟩, by decide, ⟨by decide, by decide, by decide⟩,
      ⟨by decide, ⟨by decide, by decide, by decide⟩, by decide⟩, by decide, ⟨16#5, by decide, by decide⟩⟩⟩
/-- StepRunsTheDecodedInstruction: C.EBREAK in the last parcel of the space. -/
theorem test_witness_stepRunsTheDecodedInstruction_parcel :
    let s := { start with pc := 0xFFFFFFFE#32 }.withFetchWord 16 0x9002
    NoEvent s ∧ (∃ rest, decode (bytesAtPc s) = .instr .cEbreak rest) ∧ ParcelFetchable s s.pc ∧ s.cfg.extC = true ∧
      s.cfg.baseE = false :=
  ⟨⟨by decide, by decide, by decide⟩, ⟨_, rfl⟩, ⟨by decide, by decide, by decide⟩, by decide, by decide⟩
/-- TickMovesOnlyThePlatform: without and with an NMI input. -/
theorem test_witness_tickMovesOnlyThePlatform :
    start.cfg.nmi = none ∧ { start with cfg := nmiCfg }.cfg.nmi = some 0x80000F00#32 := by decide
/-- DeniedFetchTraps, by the PMP and by the PMA. -/
theorem test_witness_deniedFetchTraps :
    (let s := { lockedRegion 0x89#8 with pc := 0x80001000#32 }
     NoEvent s ∧ s.pmpAllows s.pc 2 .execute = false) ∧
    (let s := { start with cfg := { Config.Params.atReset with pma := [{ base := 0, size := 2 ^ 32, kind := .main false }] } }
     NoEvent s ∧ pmaOk s.cfg s.pc 2 .execute = false) :=
  ⟨⟨⟨by decide, by decide, by decide⟩, by decide⟩, ⟨⟨by decide, by decide, by decide⟩, by decide⟩⟩
/-- DeniedFetchTraps, the second parcel alone: by the PMP at the edge of a locked region, by the PMA at the edge of main memory,
which ends 2 bytes below the top. -/
theorem test_witness_deniedFetchTraps_second :
    (let s := { lockedRegion 0x89#8 with pc := 0x80000FFE#32 }.placeBytes 0x80000FFE#32 [0xF3#8, 0x12#8]
     NoEvent s ∧ ParcelFetchable s s.pc ∧ TakesTwoParcels s ∧ s.pc.toNat ≤ 2 ^ 32 - 4 ∧
       s.pmpAllows (s.pc + 2#32) 2 .execute = false) ∧
    (let s := { start with
       pc := 0xFFFFFFFC#32
       cfg := { Config.Params.atReset with pma := [{ base := 0, size := 2 ^ 32 - 2, kind := .main true }] } }.placeBytes
         0xFFFFFFFC#32 [0xF3#8, 0x12#8]
     NoEvent s ∧ ParcelFetchable s s.pc ∧ TakesTwoParcels s ∧ s.pc.toNat ≤ 2 ^ 32 - 4 ∧
       pmaOk s.cfg (s.pc + 2#32) 2 .execute = false) :=
  ⟨⟨⟨by decide, by decide, by decide⟩, ⟨by decide, by decide, by decide⟩, .inl (by decide), by decide, by decide⟩,
    ⟨⟨by decide, by decide, by decide⟩, ⟨by decide, by decide, by decide⟩, .inl (by decide), by decide, by decide⟩⟩
/-- StoredByteFetchIsRefused, with the second byte of the parcel marked. -/
theorem test_witness_storedByteFetchIsRefused :
    let s := { start with stored := [0x80000101] }
    NoEvent s ∧ s.parcelAllowed s.pc = true ∧ touchesTimer s.cfg s.pc 2 = false ∧
      (s.pc.toNat ∈ s.stored ∨ (s.pc + 1#32).toNat ∈ s.stored) :=
  ⟨⟨by decide, by decide, by decide⟩, by decide⟩
/-- StoredByteFetchIsRefused, with the last byte of the second parcel marked, the last byte of the space; IALIGN = 32. -/
theorem test_witness_storedByteFetchIsRefused_second :
    let s := { start with pc := 0xFFFFFFFC#32, cfg := wideCfg, stored := [0xFFFFFFFF] }
    NoEvent s ∧ ParcelFetchable s s.pc ∧ TakesTwoParcels s ∧ s.pc.toNat ≤ 2 ^ 32 - 4 ∧
      s.parcelAllowed (s.pc + 2#32) = true ∧ s.fetchSpanPasses s.pc = true ∧ touchesTimer s.cfg (s.pc + 2#32) 2 = false ∧
      ((s.pc + 2#32).toNat ∈ s.stored ∨ (s.pc + 3#32).toNat ∈ s.stored) :=
  ⟨⟨by decide, by decide, by decide⟩, ⟨by decide, by decide, by decide⟩, .inr (by decide), by decide, by decide, by decide,
    by decide, by decide⟩
/-- InterruptIsTaken, the external interrupt with both pending, and the timer interrupt alone. -/
theorem test_witness_interruptIsTaken :
    (let s := { interrupted with mieMtie := true, mtipLine := true }
     s.wfiStalled = false ∧ s.nmiDue = none ∧ s.mstatusMie = true ∧ s.irqDelay = 0 ∧ s.mieMeie = true ∧ s.extIrq = true) ∧
    (let s := { interrupted with extIrq := false, mieMtie := true, mtipLine := true }
     s.wfiStalled = false ∧ s.nmiDue = none ∧ s.mstatusMie = true ∧ s.irqDelay = 0 ∧
       (s.mieMeie = false ∨ s.extIrq = false) ∧ s.mieMtie = true ∧ s.mtipLine = true) := by decide
/-- NoInterruptUnlessTakeable: MIE clear with both pending; MIE set with a source that is not enabled. -/
theorem test_witness_noInterruptUnlessTakeable :
    (let s := { interrupted with mstatusMie := false }
     s.wfiStalled = false ∧ s.nmiDue = none ∧ s.mstatusMie = false) ∧
    (let s := { interrupted with mieMeie := false, mieMtie := true }
     s.wfiStalled = false ∧ s.nmiDue = none ∧ (s.mieMeie = false ∨ s.extIrq = false) ∧
       (s.mieMtie = false ∨ s.mtipLine = false)) := by decide
/-- NmiIsTaken, running and stalled. -/
theorem test_witness_nmiIsTaken :
    let s := { interrupted with cfg := nmiCfg, nmiPending := true }
    s.nmiPending = true ∧ s.cfg.nmi = some 0x80000F00#32 ∧ s.wfiStalled = false ∧
      { s with wfiStalled := true }.wfiStalled = true := by decide
/-- ImmediateInterruptTest: after an MRET and after CSR writes to `mstatus`, `mie` and `mip` an interrupt is takeable. -/
theorem test_witness_immediateInterruptTest :
    let s := { start with mstatusMpie := true, mieMeie := true, trace := [{ quiet with extIrq := true, irqDelay := 9 }] }
    (∃ t, exec .mret s = .next t ∧ t.tick.takeable = true) ∧
    (lookupCsr s.cfg 0x300#12 = .present .mstatus ∧
      ∃ t, exec (.csrrsi 0#5 0x300#12 8#5) s = .next t ∧ t.tick.takeable = true) ∧
    (lookupCsr s.cfg 0x304#12 = .present .mie ∧
      ∃ t, exec (.csrrs 0#5 0x304#12 1#5) { s with mstatusMie := true } = .next t ∧ t.tick.takeable = true) ∧
    (lookupCsr s.cfg 0x344#12 = .present .mip ∧
      ∃ t, exec (.csrrw 0#5 0x344#12 0#5) { s with mstatusMie := true } = .next t ∧ t.tick.takeable = true) :=
  ⟨exists_next (p := fun t => t.tick.takeable) (by decide),
    ⟨by decide, exists_next (p := fun t => t.tick.takeable) (by decide)⟩,
    ⟨by decide, exists_next (p := fun t => t.tick.takeable) (by decide)⟩,
    ⟨by decide, exists_next (p := fun t => t.tick.takeable) (by decide)⟩⟩
/-- InterruptDeferralIsFinite. -/
theorem test_witness_interruptDeferralIsFinite :
    let s := { interrupted with irqDelay := 1 }.placeBytes 0x80000100#32 [0x13#8, 0#8, 0#8, 0#8]
    (∃ u, s.runInstruction = .next u ∧ u.takeable = true) ∧ 0 < s.irqDelay :=
  ⟨exists_next (p := State.takeable) (by decide), by decide⟩
/-- TimerLineFollowsTheComparison: agreeing, differing with the delay run out, differing with a delay of one. -/
theorem test_witness_timerLineFollowsTheComparison :
    let s : State := { start with mtimecmp := 5#64 }
    let u : State := { start with mtimecmp := 0#64 }
    s.mtipLine = decide (s.mtimecmp.toNat ≤ s.tick.mtime.toNat) ∧
    (u.mtipLine ≠ decide (u.mtimecmp.toNat ≤ u.tick.mtime.toNat) ∧ u.mtipDelay = 0) ∧
    ({ u with mtipDelay := 1 }.mtipLine ≠ decide (u.mtimecmp.toNat ≤ { u with mtipDelay := 1 }.tick.mtime.toNat) ∧
      0 < { u with mtipDelay := 1 }.mtipDelay) := by decide
/-- ClockDoesNotStop: the wait not run out, run out (`mtime` then advances although the draw is 0), and a stalled hart. -/
theorem test_witness_clockDoesNotStop :
    (let s := { start with mtimeWait := 1 }.withFetchWord 32 0x00128293
     0 < s.mtimeWait ∧ ∃ t, step s = .next t ∧ (t.mtimeWait == 0 && t.mtime == s.mtime) = true) ∧
    (let s := { start with mtimeWait := 0 }.withFetchWord 32 0x00128293
     s.mtimeWait = 0 ∧ ∃ t, step s = .next t ∧ (t.mtime == s.mtime + 1#64) = true) ∧
    (let s := { start with wfiStalled := true }
     s.wfiStalled = true ∧ ∃ t, step s = .next t ∧ (t.mtime == s.mtime + 1#64) = true) :=
  ⟨⟨by decide, exists_next (by decide)⟩, ⟨by decide, exists_next (by decide)⟩, ⟨by decide, exists_next (by decide)⟩⟩
/-- StalledHartResumes, its four cases. -/
theorem test_witness_stalledHartResumes :
    let s := { interrupted with wfiStalled := true }
    (s.wfiStalled = true ∧ s.nmiDue = none ∧ s.pendingEnabled = true ∧ s.mstatusMie = true) ∧
    (let u := { s with mstatusMie := false }
     u.wfiStalled = true ∧ u.nmiDue = none ∧ u.pendingEnabled = true ∧ u.mstatusMie = false) ∧
    (let u := { s with extIrq := false, trace := [{ quiet with wfiWake := true }] }
     u.wfiStalled = true ∧ u.nmiDue = none ∧ u.pendingEnabled = false ∧ u.drawNow.wfiWake = true) ∧
    (let u := { s with extIrq := false }
     u.wfiStalled = true ∧ u.nmiDue = none ∧ u.pendingEnabled = false ∧ u.drawNow.wfiWake = false) := by decide
/-- CsrWriteForms and CsrSetClearForms, at the first and the last CSR that can be written. -/
theorem test_witness_csrWriteForms :
    lookupCsr start.cfg 0x300#12 = .present .mstatus ∧ csrReadOnly 0x300#12 = false ∧
    lookupCsr start.cfg 0xB9F#12 = .present (.mhpmcounterh 31) ∧ csrReadOnly 0xB9F#12 = false ∧ (31#5 : Reg) ≠ 0#5 := by decide
/-- CsrWriteForms, `mcause`: the largest code, and the largest value of the minimum set. -/
theorem test_witness_csrWriteForms_mcause :
    ((start.setX 6#5 7#32).getX 6#5).toNat ≤ 7 ∧
    (start.setX 6#5 0x8000000B#32).getX 6#5 ∈ [0xB#32, 0x80000000#32, 0x80000007#32, 0x8000000B#32] := by decide
/-- CsrReadForms: a read-only register; a chip with the shadows, at both ends of the two ranges of the event counters. -/
theorem test_witness_csrReadForms :
    lookupCsr start.cfg 0xF15#12 = .present .mconfigptr ∧
    (let s := { start with cfg := { Config.Params.atReset with hasZicntr := true, hasZihpm := true } }
     s.cfg.hasZicntr = true ∧ s.cfg.hasZihpm = true) ∧
    ([0xC03#12, 0xC1F#12, 0xC83#12, 0xC9F#12].all (fun a : CsrAddr =>
      decide ((0xC03 ≤ a.toNat ∧ a.toNat ≤ 0xC1F) ∨ (0xC83 ≤ a.toNat ∧ a.toNat ≤ 0xC9F)))) = true := by decide
/-- IllegalCsrAccessTraps: an absent CSR, and the first and last that are read-only by address. -/
theorem test_witness_illegalCsrAccessTraps :
    lookupCsr start.cfg 0x306#12 = .absent ∧
    (lookupCsr start.cfg 0xC00#12 = .present .cycle ∧ 0xC00 ≤ (0xC00#12 : CsrAddr).toNat) ∧
    (lookupCsr start.cfg 0xF15#12 = .present .mconfigptr ∧ 0xC00 ≤ (0xF15#12 : CsrAddr).toNat) := by decide
/-- The addresses of the first clause of AbsentCsrAddresses. -/
def absentAddress (a : CsrAddr) : Bool :=
  decide (a.extractLsb' 8 2 = 0b01#2 ∨ a.extractLsb' 8 2 = 0b10#2 ∨
    (a.toNat ≤ 0x0FF ∧ a ≠ 0x011#12 ∧ a ≠ 0x017#12) ∨
    (0x302 ≤ a.toNat ∧ a.toNat ≤ 0x303) ∨ (0x306 ≤ a.toNat ∧ a.toNat ≤ 0x30F) ∨ (0x311 ≤ a.toNat ∧ a.toNat ≤ 0x322) ∨
    (0x345 ≤ a.toNat ∧ a.toNat ≤ 0x39F) ∨ (0x3F0 ≤ a.toNat ∧ a.toNat ≤ 0x79F) ∨
    (0x7B0 ≤ a.toNat ∧ a.toNat ≤ 0xAFF) ∨ a = 0xB01#12 ∨ (0xB20 ≤ a.toNat ∧ a.toNat ≤ 0xB7F) ∨ a = 0xB81#12 ∨
    (0xBA0 ≤ a.toNat ∧ a.toNat ≤ 0xBFF) ∨ (0xC20 ≤ a.toNat ∧ a.toNat ≤ 0xC7F) ∨
    (0xCA0 ≤ a.toNat ∧ a.toNat ≤ 0xF10) ∨ 0xF16 ≤ a.toNat)
/-- AbsentCsrAddresses: both ends of each range, and of the supervisor and hypervisor blocks; `fflags`, `seed`, `vl`. -/
theorem test_witness_absentCsrAddresses :
    ([0x000#12, 0x001#12, 0x010#12, 0x012#12, 0x015#12, 0x016#12, 0x018#12, 0x0FF#12, 0x100#12, 0x1FF#12, 0x200#12, 0xEFF#12,
      0x302#12, 0x303#12, 0x306#12, 0x30F#12, 0x311#12, 0x322#12, 0x345#12, 0x39F#12, 0x3F0#12, 0x79F#12, 0x7B0#12, 0xAFF#12,
      0xB01#12, 0xB20#12, 0xB7F#12, 0xB81#12, 0xBA0#12, 0xBFF#12, 0xC20#12, 0xC7F#12, 0xCA0#12, 0xF10#12, 0xF16#12,
      0xFFF#12].all absentAddress) = true := by decide
/-- AbsentCsrAddresses, the optional groups: both ends of each range, and the parameters that close them. -/
theorem test_witness_absentCsrAddresses_optional :
    ([0xC00#12, 0xC02#12, 0xC80#12, 0xC82#12].all (fun a : CsrAddr =>
      decide ((0xC00 ≤ a.toNat ∧ a.toNat ≤ 0xC02) ∨ (0xC80 ≤ a.toNat ∧ a.toNat ≤ 0xC82)))) = true ∧
    ([0x7A0#12, 0x7AF#12].all (fun a : CsrAddr => decide (0x7A0 ≤ a.toNat ∧ a.toNat ≤ 0x7AF))) = true ∧
    { Config.Params.atReset with hasZicntr := false, hasZihpm := false }.hasZicntr = false ∧
    { Config.Params.atReset with hasZicntr := false, hasZihpm := false }.hasZihpm = false := by decide
/-- ReadOnlyZeroRegisters: both ends of each range. -/
theorem test_witness_readOnlyZeroRegisters :
    ([0x3A2#12, 0x3AF#12, 0x3B8#12, 0x3EF#12, 0xB03#12, 0xB1F#12, 0xB83#12, 0xB9F#12, 0x323#12, 0x33F#12].all (fun a : CsrAddr =>
      decide ((0x3A2 ≤ a.toNat ∧ a.toNat ≤ 0x3AF) ∨ (0x3B8 ≤ a.toNat ∧ a.toNat ≤ 0x3EF) ∨
        (0xB03 ≤ a.toNat ∧ a.toNat ≤ 0xB1F) ∨ (0xB83 ≤ a.toNat ∧ a.toNat ≤ 0xB9F) ∨
        (0x323 ≤ a.toNat ∧ a.toNat ≤ 0x33F)))) = true := by decide
/-- PmpcfgWrite: the other register's entry, a locked entry, an unlocked one written with a legal byte; entries 4 and 1 and 3. -/
theorem test_witness_pmpcfgWrite :
    let s := lockedRegion 0x89#8
    ((4 : Fin 8).val / 4 ≠ 0 ∧ (0 : Nat) < 2) ∧ pmpL s.pmpcfg[1] = true ∧
    ((3 : Fin 8).val / 4 = 0 ∧ pmpL s.pmpcfg[3] = false ∧ pmpLegalByte (wordByte 0x8F000000#32 (3 % 4) &&& 0x9F#8) = true) := by
  decide
/-- PmpaddrWrite: entry 1 is locked itself, entry 0 by the TOR entry above it, entry 7 not at all. -/
theorem test_witness_pmpaddrWrite :
    let s := lockedRegion 0x89#8
    AddressLocked s 1 ∧ AddressLocked s 0 ∧ ¬ AddressLocked s 7 :=
  ⟨.inl (by decide), .inr ⟨by decide, by decide⟩, by
    rintro (h | ⟨h, -⟩)
    · exact absurd h (by decide)
    · exact absurd h (by decide)⟩
/-- WfiCompletesOrStalls, both draws. -/
theorem test_witness_wfiCompletesOrStalls :
    (start.wfiStalled = false ∧ start.drawNow.wfiStall = false) ∧
    (let s := { start with trace := [{ quiet with wfiStall := true }] }
     s.wfiStalled = false ∧ s.drawNow.wfiStall = true) := by decide
/-- LwLoadsFromMemory and SwStoresToMemory, at the last word of the space and at the words beside the timer registers. -/
theorem test_witness_memoryAccess :
    ([0xFFFFFFFC#32, 0x00000000#32, 0x02003FFC#32, 0x02004010#32].all (fun a : Word =>
      let s := start.setX 6#5 a
      decide (a = s.effectiveAddress 6#5 0#12 ∧ a = s.getX 6#5 + (0#12).signExtend 32 ∧ a.toNat % 4 = 0 ∧
        s.pmpAllows a 4 .read = true ∧ pmaOk s.cfg a 4 .read = true ∧ s.pmpAllows a 4 .write = true ∧
        pmaOk s.cfg a 4 .write = true ∧ timerWordAt s.cfg a = none))) = true := by decide +kernel
theorem test_params_at_reset_ok : ParamsOk State.reset.cfg :=
  ⟨by decide, by decide, by decide, by intro v h; cases h⟩
/-- LwReadsTheTimer and SwWritesTheTimer, the four words (the parameters are those of `test_params_at_reset_ok`). -/
theorem test_witness_timerAccess :
    start.cfg = State.reset.cfg ∧
    ([start.cfg.mtimeAddr, start.cfg.mtimeAddr + 4#32, start.cfg.mtimecmpAddr, start.cfg.mtimecmpAddr + 4#32].all (fun a : Word =>
      let s := start.setX 6#5 a
      decide (a = s.effectiveAddress 6#5 0#12 ∧ a = s.getX 6#5 + (0#12).signExtend 32 ∧
        s.pmpAllows a 4 .read = true ∧ pmaOk s.cfg a 4 .read = true ∧ s.pmpAllows a 4 .write = true ∧
        pmaOk s.cfg a 4 .write = true))) = true := by decide +kernel
/-- DataAccessFaults: denied by the PMA, denied by the PMP however the access is split, misaligned and allowed, for both accesses. -/
theorem test_witness_dataAccessFaults :
    (let s := { start with cfg := { Config.Params.atReset with pma := [] } }
     pmaOk s.cfg 0x80001000#32 4 .read = false ∧ pmaOk s.cfg 0x80001000#32 4 .write = false) ∧
    (let s := lockedRegion 0x8C#8
     s.pmpAllows 0x80001FFC#32 4 .read = false ∧ s.pmpAllowsSplit 0x80001FFC#32 4 .read = false ∧
     s.pmpAllows 0x80001FFC#32 4 .write = false ∧ s.pmpAllowsSplit 0x80001FFC#32 4 .write = false) ∧
    ((0x80001001#32 : Word).toNat % 4 ≠ 0 ∧ start.pmpAllows 0x80001001#32 4 .read = true ∧
      pmaOk start.cfg 0x80001001#32 4 .read = true ∧ start.pmpAllows 0x80001003#32 4 .write = true ∧
      pmaOk start.cfg 0x80001003#32 4 .write = true) := by decide
/-- The access of DataAccessFaults at `a`, with no entry of the PMP set: misaligned and allowed. -/
def allowedMisaligned (a : Word) : Bool :=
  decide (a.toNat % 4 ≠ 0) && start.pmpAllows a 4 .read && pmaOk start.cfg a 4 .read && start.pmpAllows a 4 .write &&
    pmaOk start.cfg a 4 .write
/-- DataAccessFaults, the timer registers at 0x02004000 to 0x0200400F: the first and the last misaligned address that touches
them, and the nearest ones that do not. -/
theorem test_witness_dataAccessFaults_timer :
    (allowedMisaligned 0x02003FFD#32 = true ∧ TouchesTimer start.cfg 0x02003FFD#32) ∧
    (allowedMisaligned 0x0200400F#32 = true ∧ TouchesTimer start.cfg 0x0200400F#32) ∧
    (allowedMisaligned 0x02003FFB#32 = true ∧ ¬ TouchesTimer start.cfg 0x02003FFB#32) ∧
    (allowedMisaligned 0x02004011#32 = true ∧ ¬ TouchesTimer start.cfg 0x02004011#32) := by
  unfold TouchesTimer TimerByte
  decide +kernel
/-- StoreThenLoad: `sw x5, 4(x6)` and `lw x7, 0(x8)` at the same word. -/
theorem test_witness_storeThenLoad :
    let s := ((start.setX 6#5 0x80001000#32).setX 8#5 0x80001004#32).setX 5#5 7#32
    timerWordAt s.cfg (s.effectiveAddress 6#5 4#12) = none ∧ pmaOk s.cfg (s.effectiveAddress 6#5 4#12) 4 .read = true ∧
    ∃ t, exec (.sw 5#5 6#5 4#12) s = .next t ∧
      (t.minstret == s.minstret + 1 && t.effectiveAddress 8#5 0#12 == s.effectiveAddress 6#5 4#12 &&
        t.pmpAllows (s.effectiveAddress 6#5 4#12) 4 .read) = true := by
  refine ⟨by decide, by decide, exists_next (p := fun t => _) (by decide)⟩
/-- JalJumps and BneBranches: aligned targets, the branch taken and not taken. -/
theorem test_witness_jumps :
    ialigned start.cfg (start.pc + (2#21).signExtend 32) = true ∧
    ((start.setX 5#5 1#32).getX 5#5 ≠ (start.setX 5#5 1#32).getX 0#5 ∧
      ialigned start.cfg (start.pc + (0x1000#13).signExtend 32) = true) ∧
    start.getX 5#5 = start.getX 0#5 := by decide
/-- MisalignedTargets: the first two clauses with IALIGN = 32, the third with IALIGN = 16. -/
theorem test_witness_misalignedTargets :
    (let s := { start with cfg := wideCfg }.setX 5#5 1#32
     ialigned s.cfg (s.pc + (2#21).signExtend 32) = false ∧ s.getX 5#5 ≠ s.getX 0#5 ∧
       ialigned s.cfg (s.pc + (2#13).signExtend 32) = false) ∧
    (start.cfg.extC = true ∧ ialigned start.cfg start.pc = true ∧ (Instr.jal 0#5 0x100000#21).wellFormed = true ∧
      (Instr.bne 0#5 0#5 0x1000#13).wellFormed = true) := by decide
/-- PmpFirstMatchDecides: the word below the locked entry matches nothing, its first and last words match it, entry 0 is OFF and
entry 1 TOR. -/
theorem test_witness_pmpFirstMatchDecides :
    let s := lockedRegion 0x89#8
    ((0x80000FFC#32 : Word).toNat % 4 = 0 ∧ ∀ i : Fin 8, (s.pmpEntry i).matchesByte 0x80000FFC#32 = false) ∧
    FirstMatch s 0x80001000#32 1 ∧ FirstMatch s 0x80001FFC#32 1 ∧
    s.pmpcfg[(0 : Fin 8)].extractLsb' 3 2 = 0#2 ∧ s.pmpcfg[(1 : Fin 8)].extractLsb' 3 2 = 1#2 :=
  ⟨by decide, ⟨by decide, by decide⟩, ⟨by decide, by decide⟩, by decide, by decide⟩
/-- UnlockedPmpDeniesNothing: an unlocked entry that matches everything; every entry OFF, one of them locked. -/
theorem test_witness_unlockedPmpDeniesNothing :
    (let s := { start with pmpcfg := #v[0x08#8, 0#8, 0#8, 0#8, 0#8, 0#8, 0#8, 0#8] }
     ∀ i : Fin 8, pmpL s.pmpcfg[i] = false) ∧
    (let s := { start with pmpcfg := #v[0x80#8, 0#8, 0#8, 0#8, 0#8, 0#8, 0#8, 0#8] }
     ∀ i : Fin 8, pmpA s.pmpcfg[i] = 0#2) := by decide
/-- LockedPmpEntriesPersist, with the TOR clause: a step that writes `pmpaddr0` below the locked TOR entry 1. -/
theorem test_witness_lockedPmpEntriesPersist :
    let s := (lockedRegion 0x89#8).withFetchWord 32 0x3B0016F3
    (∃ t, step s = .next t ∧ retired t = true) ∧ Locked s 1 ∧ pmpA s.pmpcfg[1] = 1#2 ∧ (0 : Fin 8).val + 1 = (1 : Fin 8).val :=
  ⟨exists_next (by decide), by unfold Locked; decide, by decide, by decide⟩
/-- ReadOnlyRegionsStayUnmodified: a region that no entry unlocked precedes, a store to it, two steps. -/
theorem test_witness_readOnlyRegionsStayUnmodified :
    let s := { start.setX 8#5 0x80001000#32 with
      pmpcfg := #v[0x89#8, 0#8, 0#8, 0#8, 0#8, 0#8, 0#8, 0#8]
      pmpaddr := #v[0x20000800#32, 0#32, 0#32, 0#32, 0#32, 0#32, 0#32, 0#32]
      pc := 0x80003000#32
      mtvecBase := 0x20000C00#30 }.withFetchWord 32 0x00942823
    FirstMatch s 0x80001010#32 0 ∧ (∀ j : Fin 8, j ≤ 0 → Locked s j) ∧ pmpW s.pmpcfg[(0 : Fin 8)] = false ∧
      ∃ t, Host.Core.run Sys2Proof.core 2 s = .next t ∧ (t.mcause == 7#32) = true :=
  ⟨⟨by decide, by decide⟩, (by decide : ∀ j : Fin 8, j ≤ 0 → pmpL _ = true), by decide,
    exists_next (r := Sys2Proof.core.run 2 _) (p := fun t => t.mcause == 7#32) (by decide)⟩
/-- ResetStatesSatisfyTheInvariant. -/
theorem test_witness_resetStatesSatisfyTheInvariant : IsResetState { start with pc := 0x80000000#32, mscratch := 0xDEADBEEF#32 } where
  pc := by decide
  priv := by decide
  mie := by decide
  mcause := by decide
  pmpOff := by decide
  pmpUnlocked := by decide
  pmpLegal := by decide
  pmpaddrGrain := by decide
  mepcLegal := by decide
  notStalled := by decide
  nothingStored := by decide
  memCanonical := by decide
  params := ⟨by decide, by decide, by decide, by intro v h; cases h⟩
/-- InvariantIsKept. -/
theorem test_witness_invariant : Invariant running where
  memCanonical := by decide
  storedRising := by decide
  pcAligned := by decide
  mepcAligned := by decide
  privMachine := by decide
  pmpLegal := by decide
  pmpaddrGrain := by decide
  mcauseSupported := by decide
  params := ⟨by decide, by decide, by decide, by intro v h; cases h⟩
/-- InvariantIsKept and ModeAndParametersNeverChange. -/
theorem test_witness_step_from_invariant : running.priv = .machine ∧ ∃ t, step running = .next t ∧ retired t = true :=
  ⟨by decide, exists_next (by decide)⟩
/-- OnlyCsrInstructionsWriteControlState: a step that changes `mie`. -/
theorem test_witness_onlyCsrInstructionsWriteControlState :
    let s := (start.setX 6#5 0xFFFFFFFF#32).withFetchWord 32 0x30431073
    ∃ t, step s = .next t ∧ decide (t.mieMeie ≠ s.mieMeie ∨ t.mieMtie ≠ s.mieMtie) = true :=
  exists_next (by decide)
/-- WhatWritesTheTrapRegisters: a step that takes a trap. -/
theorem test_witness_whatWritesTheTrapRegisters :
    let s := start.withFetchWord 32 0x00000073
    ∃ t, step s = .next t ∧ decide (t.mepc ≠ s.mepc ∨ t.mcause ≠ s.mcause) = true :=
  exists_next (by decide)
/-- WhatEnablesInterrupts: an MRET with MPIE set. -/
theorem test_witness_whatEnablesInterrupts :
    let s := { start with mstatusMpie := true }.withFetchWord 32 0x30200073
    s.mstatusMie = false ∧ ∃ t, step s = .next t ∧ t.mstatusMie = true :=
  ⟨by decide, exists_next (by decide)⟩
/-- MinstretCountsRetirement, second clause: an interrupt at the boundary. -/
theorem test_witness_minstretCountsRetirement :
    interrupted.wfiStalled = false ∧ interrupted.takeEvent = some (interrupted.interruptEntry .machineExternal) ∧
      ∃ t, step interrupted = .next t ∧ (t.mcause == 0x8000000B#32) = true :=
  ⟨by decide, by decide, exists_next (by decide)⟩
/-- StallsBeginOnlyWithWfi: a step that begins a stall, and one that starts stalled. -/
theorem test_witness_stallsBeginOnlyWithWfi :
    (let s := { start with trace := [{ quiet with wfiStall := true }] }.withFetchWord 32 0x10500073
     s.wfiStalled = false ∧ ∃ t, step s = .next t ∧ t.wfiStalled = true) ∧
    (let s := { start with wfiStalled := true }
     s.wfiStalled = true ∧ ∃ t, step s = .next t ∧ t.wfiStalled = true) :=
  ⟨⟨by decide, exists_next (by decide)⟩, ⟨by decide, exists_next (by decide)⟩⟩

end Sys2Proof.Tests
end

/-! PROOFS. The state's family of statements (10_state.md): what one step can do, flattened; the trap registers, the mode and
the invariant under each operation; the registers that hold a constant. -/

namespace Sys2Proof.Machine

open Sys2Proof.Safety

/-! ### Every effect a step can have

`StepShape` says which part of the boundary ran. Here the boundary of a stalled hart and the event are taken apart too, so that
a proof about steps has one case for each operation on the state. -/

/-- Where an event at the boundary `s` finds the hart: at `s` itself, or just past the WFI that a stalled hart completes. -/
inductive EventPoint (s : State) : State → Prop
  | atPc : EventPoint s s
  | pastWfi (hs : s.wfiStalled = true) : EventPoint s s.wfiComplete

/-- What a step does to `s` before the platform's tick. -/
inductive StepEffect (s u : State) : Prop
  /-- A stalled hart stays stalled. -/
  | idle (h : u = s)
  /-- A stalled WFI completes, and no event follows. -/
  | wake (h : u = s.wfiComplete)
  | nmi (b : State) (hb : EventPoint s b) (v : Word) (hv : s.nmiDue = some v) (h : u = b.nmiEntry v)
  | interrupt (b : State) (hb : EventPoint s b) (i : Interrupt) (h : u = b.interruptEntry i)
  /-- A synchronous exception before any instruction executes. -/
  | raise (e : Exception) (h : u = s.raise e)
  | instr (i : Instr) (hr : RunsAt s i) (h : ExecShape i s u)

@[simp] theorem nmiDue_wfiComplete (s : State) : s.wfiComplete.nmiDue = s.nmiDue := rfl

theorem EventPoint.nmiDue_eq {s b : State} (hb : EventPoint s b) : b.nmiDue = s.nmiDue := by
  cases hb <;> simp

theorem EventPoint.cfg_eq {s b : State} (hb : EventPoint s b) : b.cfg = s.cfg := by
  cases hb <;> simp

theorem EventPoint.trapTarget_eq {s b : State} (hb : EventPoint s b) : b.trapTarget = s.mtvecBase ++ 0#2 := by
  cases hb <;> rfl

theorem EventPoint.pc_cases {s b : State} (hb : EventPoint s b) :
    b.pc = s.pc ∨ (s.wfiStalled = true ∧ b.pc = s.pc + 4#32) := by
  cases hb with
  | atPc => exact .inl rfl
  | pastWfi hs => exact .inr ⟨hs, rfl⟩

/-- An NMI that is due goes to the platform's vector. -/
theorem nmi_of_nmiDue {s : State} {v : Word} (h : s.nmiDue = some v) : s.cfg.nmi = some v := by
  unfold State.nmiDue at h
  split at h
  · exact h
  · cases h

theorem stepEffect_of_takeEvent {s b u : State} (hb : EventPoint s b) (h : b.takeEvent = some u) : StepEffect s u := by
  rcases takeEvent_cases b with ⟨v, hv, he⟩ | ⟨i, _, _, he⟩ | ⟨_, _, he⟩ <;> rw [he] at h <;> cases h
  · exact .nmi b hb v (hb.nmiDue_eq ▸ hv) rfl
  · exact .interrupt b hb i rfl

/-- Everything a step that answers a next state does: one effect, then the platform's tick. -/
theorem step_effect {s t : State} (h : step s = .next t) : ∃ u, t = u.tick ∧ StepEffect s u := by
  obtain ⟨u, rfl, hu⟩ := step_shape h
  refine ⟨u, rfl, ?_⟩
  cases hu with
  | stalled hs hu =>
    rcases stalledBoundary_cases s with ⟨_, hb⟩ | ⟨_, _, hb⟩ | ⟨w, _, he, hb⟩
    · exact .idle (hu.trans hb)
    · exact .wake (hu.trans hb)
    · exact stepEffect_of_takeEvent (.pastWfi hs) (he.trans (congrArg some (hu.trans hb).symm))
  | event _ he => exact stepEffect_of_takeEvent .atPc he
  | instr i hr _ hx => exact .instr i hr hx
  | trap e _ hu => exact .raise e hu

/-! ### The mode and the parameters (R22) -/

theorem ExecShape.cfg_eq {i : Instr} {s u : State} (h : ExecShape i s u) : u.cfg = s.cfg := by
  cases h <;> subst u <;> simp

theorem StepEffect.cfg_eq {s u : State} (h : StepEffect s u) : u.cfg = s.cfg := by
  cases h with
  | idle h | wake h | raise _ h => subst h; rfl
  | nmi _ hb _ _ h | interrupt _ hb _ h => subst h; exact hb.cfg_eq
  | instr _ _ h => exact h.cfg_eq

/-- An instruction leaves the mode alone or traps into M mode. -/
theorem ExecShape.priv_cases {i : Instr} {s u : State} (h : ExecShape i s u) : u.priv = s.priv ∨ u.priv = .machine := by
  cases h with
  | trap e h => subst h; exact .inr rfl
  | _ => subst u; exact .inl (by simp)

theorem StepEffect.priv_cases {s u : State} (h : StepEffect s u) : u.priv = s.priv ∨ u.priv = .machine := by
  cases h with
  | idle h | wake h => subst h; exact .inl rfl
  | nmi _ _ _ _ h | interrupt _ _ _ h | raise _ h => subst h; exact .inr rfl
  | instr _ _ h => exact h.priv_cases

/-- Settles O54: each effect of a step leaves the mode alone or enters M mode, and none writes a parameter. -/
theorem modeAndParametersNeverChange : Obligations.ModeAndParametersNeverChange := by
  intro s t h
  obtain ⟨u, rfl, hu⟩ := step_effect h
  refine ⟨fun hm => ?_, hu.cfg_eq⟩
  rcases hu.priv_cases with hp | hp
  · exact hp.trans hm
  · exact hp

/-! ### The values the hardware writes to `mcause` (R303, R335) -/

/-- The causes of the exceptions, of the two interrupts and of the NMI. -/
def HardwareCause (v : Word) : Prop :=
  v.toNat ≤ 7 ∨ v = 0xB#32 ∨ v = 0x80000007#32 ∨ v = 0x8000000B#32 ∨ v = 0x80000000#32

theorem hardwareCause_raise (s : State) (e : Exception) : HardwareCause (s.raise e).mcause := by
  cases e <;> simp [HardwareCause, Exception.code]

theorem hardwareCause_interruptEntry (s : State) (i : Interrupt) : HardwareCause (s.interruptEntry i).mcause := by
  cases i <;> simp [HardwareCause, Interrupt.code]

theorem hardwareCause_nmiEntry (s : State) (v : Word) : HardwareCause (s.nmiEntry v).mcause := by
  simp [HardwareCause]

/-- `mcause` supports at least what the hardware writes to it (R46). -/
theorem mcauseLegal_of_hardwareCause {v : Word} (h : HardwareCause v) : mcauseLegal v = true := by
  rcases h with h | rfl | rfl | rfl | rfl <;> simp [mcauseLegal, *]

/-! ### What writes `mepc` and `mcause` -/

/-- The trap registers after a trap or an NMI taken at `s`: where it came from, where control goes, and why. -/
structure TrapRegistersSet (s u : State) : Prop where
  mepc : u.mepc = s.pc ∨ (s.wfiStalled = true ∧ u.mepc = s.pc + 4#32)
  target : u.pc = s.mtvecBase ++ 0#2 ∨ s.cfg.nmi = some u.pc
  cause : HardwareCause u.mcause

theorem trapRegistersSet_raise (s : State) (e : Exception) : TrapRegistersSet s (s.raise e) where
  mepc := .inl rfl
  target := .inl rfl
  cause := hardwareCause_raise s e

theorem trapRegistersSet_interruptEntry {s b : State} (hb : EventPoint s b) (i : Interrupt) :
    TrapRegistersSet s (b.interruptEntry i) where
  mepc := hb.pc_cases
  target := .inl hb.trapTarget_eq
  cause := hardwareCause_interruptEntry b i

theorem trapRegistersSet_nmiEntry {s b : State} (hb : EventPoint s b) {v : Word} (hv : s.nmiDue = some v) :
    TrapRegistersSet s (b.nmiEntry v) where
  mepc := hb.pc_cases
  target := .inr (nmi_of_nmiDue hv)
  cause := hardwareCause_nmiEntry b v

/-- An instruction other than a CSR instruction leaves `mepc` and `mcause` alone, or traps. -/
theorem ExecShape.trapRegisters_cases {i : Instr} {s u : State} (h : ExecShape i s u) :
    isCsrInstr i = true ∨ (u.mepc = s.mepc ∧ u.mcause = s.mcause) ∨ TrapRegistersSet s u := by
  cases h with
  | csr hi => exact .inl hi
  | trap e h => subst h; exact .inr (.inr (trapRegistersSet_raise s e))
  | _ => subst u; exact .inr (.inl (by simp))

theorem StepEffect.trapRegisters_cases {s u : State} (h : StepEffect s u) :
    (∃ i, RunsAt s i ∧ isCsrInstr i = true) ∨ (u.mepc = s.mepc ∧ u.mcause = s.mcause) ∨ TrapRegistersSet s u := by
  cases h with
  | idle h | wake h => subst h; exact .inr (.inl ⟨rfl, rfl⟩)
  | nmi b hb v hv h => subst h; exact .inr (.inr (trapRegistersSet_nmiEntry hb hv))
  | interrupt b hb i h => subst h; exact .inr (.inr (trapRegistersSet_interruptEntry hb i))
  | raise e h => subst h; exact .inr (.inr (trapRegistersSet_raise s e))
  | instr i hr h => exact h.trapRegisters_cases.imp_left fun hi => ⟨i, hr, hi⟩

/-- Settles O56: of the three things a step can do to the trap registers, leaving both alone is excluded by hypothesis. -/
theorem whatWritesTheTrapRegisters : Obligations.WhatWritesTheTrapRegisters := by
  intro s t h hne
  obtain ⟨u, rfl, hu⟩ := step_effect h
  rcases hu.trapRegisters_cases with hcsr | ⟨hepc, hcause⟩ | ht
  · exact .inl hcsr
  · exact absurd hne (by simp [hepc, hcause])
  · exact .inr ⟨ht.mepc, ht.target, ht.cause⟩

/-! ### What sets `mstatus.MIE` -/

/-- An instruction that sets MIE is an MRET with MPIE set, or a CSR instruction. -/
theorem ExecShape.mie_set {i : Instr} {s u : State} (h : ExecShape i s u) (h0 : s.mstatusMie = false)
    (h1 : u.mstatusMie = true) : (i = .mret ∧ s.mstatusMpie = true) ∨ isCsrInstr i = true := by
  cases h with
  | ret hi h => subst h; exact .inl ⟨hi, h1⟩
  | csr hi => exact .inr hi
  | _ => subst u; simp [h0] at h1

/-- Settles O57: interrupt and exception entry clear MIE, a stall leaves it alone, and of the instructions only those named
can set it. -/
theorem whatEnablesInterrupts : Obligations.WhatEnablesInterrupts := by
  intro s t h h0 h1
  obtain ⟨u, rfl, hu⟩ := step_effect h
  simp only [tick_mstatusMie] at h1
  cases hu with
  | idle h | wake h | interrupt _ _ _ h | raise _ h => subst h; simp [h0] at h1
  | nmi _ _ v hv _ => exact .inr (.inr (by simp [hv]))
  | instr i hr hx =>
    rcases hx.mie_set h0 h1 with ⟨rfl, hp⟩ | hi
    · exact .inl ⟨hr, hp⟩
    · exact .inr (.inl ⟨i, hr, hi⟩)

/-! ### CSR instructions that change nothing but `rd` -/

/-- Writing `rd` and retiring is the whole effect of an instruction that only computes `rd`. -/
theorem computes_setX_retire (s : State) (rd : Reg) (v : Word) : Computes s (s.setX rd v).retire rd v where
  result := ⟨getX_setX_same s rd v, fun _ hr => getX_setX_other s v hr⟩
  frame :=
    { memory := ⟨byteAt_of_mem (by simp), by simp⟩
      csrs := by constructor <;> simp
      trapState := by constructor <;> simp
      inputs := by constructor <;> simp
      timer := by constructor <;> simp
      deferral := by constructor <;> simp }
  retired := by constructor <;> simp

/-- A CSR instruction that is allowed, whose write changes nothing and which retires as usual, only reads the CSR into `rd`. -/
theorem execCsr_computes {s : State} {a : CsrAddr} {c : Csr} {writes : Bool} (h : lookupCsr s.cfg a = .present c)
    (hw : writes = true → csrReadOnly a = false) (hcommit : ∀ v, s.csrCommit c writes v = s)
    (hretire : ∀ t : State, t.csrRetire c writes = t.retire) (op : CsrOp) (rd : Reg) (src : Word) :
    ∃ t, s.execCsr op rd a writes src = .next t ∧ Computes s t rd (s.csrRead c) := by
  refine ⟨(s.setX rd (s.csrRead c)).retire, ?_, computes_setX_retire s rd _⟩
  rw [execCsr_present h hw, hcommit, hretire]

/-- Every reading form on a CSR that exists reads it into `rd` (R237, R238, R240, R241). -/
theorem readsAs_csrRead {s : State} {a : CsrAddr} {c : Csr} (h : lookupCsr s.cfg a = .present c) :
    ReadsAs s a (s.csrRead c) := by
  have key := fun op rd src =>
    execCsr_computes (s := s) (writes := false) h (by simp) (fun _ => rfl) (fun _ => rfl) op rd src
  exact fun rd => ⟨key .set rd _, key .clear rd _, key .set rd _, key .clear rd _⟩

/-- Settles O23: each address is that of a register whose value is a constant. -/
theorem informationRegisters : Obligations.InformationRegisters := fun _ =>
  ⟨readsAs_csrRead (c := .mvendorid) rfl, readsAs_csrRead (c := .marchid) rfl, readsAs_csrRead (c := .mimpid) rfl,
    readsAs_csrRead (c := .mhartid) rfl, readsAs_csrRead (c := .mconfigptr) rfl⟩

/-! ### The registers that hold zero for ever (R47, R62, R63, R161, R164) -/

/-- `mtval`, the event counters and selectors, and the PMP registers past the eight entries. -/
def Csr.heldAtZero : Csr → Bool
  | .mtval | .mhpmevent _ | .mhpmcounter _ | .mhpmcounterh _ => true
  | .pmpcfg n => decide (2 ≤ n)
  | .pmpaddr n => decide (8 ≤ n)
  | _ => false

theorem csrRead_heldAtZero {c : Csr} (h : c.heldAtZero = true) (s : State) : s.csrRead c = 0#32 := by
  cases c with
  | pmpcfg n | pmpaddr n => exact dif_neg (Nat.not_lt.mpr (of_decide_eq_true h))
  | mtval | mhpmevent | mhpmcounter | mhpmcounterh => rfl
  | _ => cases h

theorem csrWrite_heldAtZero {c : Csr} (h : c.heldAtZero = true) (s : State) (v : Word) : s.csrWrite c v = s := by
  cases c with
  | pmpcfg n | pmpaddr n => exact dif_neg (Nat.not_lt.mpr (of_decide_eq_true h))
  | mtval | mhpmevent | mhpmcounter | mhpmcounterh => rfl
  | _ => cases h

/-- The next interrupt test does not depend on any of these registers. -/
theorem csrCommit_heldAtZero {c : Csr} (h : c.heldAtZero = true) (s : State) (writes : Bool) (v : Word) :
    s.csrCommit c writes v = s := by
  have hc : c.inInterruptCondition = false := by
    cases c with
    | mstatus | mie | mip => cases h
    | _ => rfl
  simp [State.csrCommit, csrWrite_heldAtZero h, hc]

theorem csrRetire_heldAtZero {c : Csr} (h : c.heldAtZero = true) (s : State) (writes : Bool) :
    s.csrRetire c writes = s.retire := by
  have hc : c.isInstretHalf = false := by
    cases c with
    | minstret | minstreth => cases h
    | _ => rfl
  simp [State.csrRetire, hc]

/-- The addresses of the registers that hold zero (R102 to R106). -/
def ZeroAddress (a : CsrAddr) : Prop :=
  a = 0x343#12 ∨ (0x3A2 ≤ a.toNat ∧ a.toNat ≤ 0x3AF) ∨ (0x3B8 ≤ a.toNat ∧ a.toNat ≤ 0x3EF) ∨
    (0xB03 ≤ a.toNat ∧ a.toNat ≤ 0xB1F) ∨ (0xB83 ≤ a.toNat ∧ a.toNat ≤ 0xB9F) ∨
    (0x323 ≤ a.toNat ∧ a.toNat ≤ 0x33F)

theorem csrAt_zeroAddress {a : CsrAddr} (h : ZeroAddress a) : ∃ c, csrAt a = some c ∧ c.heldAtZero = true := by
  rcases h with rfl | h | h | h | h | h
  · exact ⟨.mtval, rfl, rfl⟩
  · exact ⟨.pmpcfg (a.toNat - 0x3A0), by simp (disch := omega) only [csrAt, if_pos, if_neg],
      by simp only [Csr.heldAtZero, decide_eq_true_eq]; omega⟩
  · exact ⟨.pmpaddr (a.toNat - 0x3B0), by simp (disch := omega) only [csrAt, if_pos, if_neg],
      by simp only [Csr.heldAtZero, decide_eq_true_eq]; omega⟩
  · exact ⟨.mhpmcounter (a.toNat - 0xB00), by simp (disch := omega) only [csrAt, if_pos, if_neg], rfl⟩
  · exact ⟨.mhpmcounterh (a.toNat - 0xB80), by simp (disch := omega) only [csrAt, if_pos, if_neg], rfl⟩
  · exact ⟨.mhpmevent (a.toNat - 0x320), by simp (disch := omega) only [csrAt, if_pos, if_neg], rfl⟩

/-- No parameter decides whether such a register exists. -/
theorem lookupCsr_heldAtZero {a : CsrAddr} {c : Csr} (h : csrAt a = some c) (hc : c.heldAtZero = true)
    (cfg : Config.Params) : lookupCsr cfg a = .present c := by
  unfold lookupCsr
  rw [h]
  cases c with
  | mtval | mhpmevent | mhpmcounter | mhpmcounterh | pmpcfg | pmpaddr => rfl
  | _ => cases hc

theorem csrReadOnly_zeroAddress {a : CsrAddr} (h : ZeroAddress a) : csrReadOnly a = false := by
  have hlt : a.toNat < 0xC00 := by
    rcases h with rfl | h | h | h | h | h
    · decide
    all_goals omega
  rw [← Bool.not_eq_true, csrReadOnly_iff]
  omega

/-- Settles O24: the register at such an address exists, reads 0, and every write to it changes nothing. -/
theorem readOnlyZeroRegisters : Obligations.ReadOnlyZeroRegisters := by
  intro s a ha
  obtain ⟨c, hat, hc⟩ := csrAt_zeroAddress ha
  have key : ∀ (op : CsrOp) (rd : Reg) (writes : Bool) (src : Word),
      ∃ t, s.execCsr op rd a writes src = .next t ∧ Computes s t rd 0#32 := fun op rd writes src =>
    csrRead_heldAtZero hc s ▸ execCsr_computes (lookupCsr_heldAtZero hat hc s.cfg)
      (fun _ => csrReadOnly_zeroAddress ha) (csrCommit_heldAtZero hc s writes)
      (fun t => csrRetire_heldAtZero hc t writes) op rd src
  exact fun rd =>
    ⟨fun x => ⟨key .write rd true _, key .set rd _ _, key .clear rd _ _⟩,
      fun u => ⟨key .write rd true _, key .set rd _ _, key .clear rd _ _⟩⟩

end Sys2Proof.Machine

namespace Sys2Proof.Safety

open Sys2Proof.Machine

/-! ### Aligned instruction addresses (R40, R45) -/

theorem ialigned_trapTarget (cfg : Config.Params) (s : State) : ialigned cfg s.trapTarget = true := by
  unfold ialigned State.trapTarget
  split <;> simp only [beq_iff_eq] <;> apply BitVec.eq_of_toNat_eq <;>
    simp only [BitVec.extractLsb'_toNat, toNat_cat, BitVec.toNat_ofNat, Nat.shiftRight_zero] <;> omega

theorem ialigned_mepcLegal (cfg : Config.Params) (v : Word) : ialigned cfg (mepcLegal cfg v) = true := by
  unfold ialigned mepcLegal
  cases cfg.extC <;> simp [BitVec.extractLsb'_and]

/-! ### The invariant under each operation -/

section Keeps

variable {s : State}

theorem Invariant.retireTo (hs : Invariant s) {target : Word} (h : ialigned s.cfg target = true) :
    Invariant (s.retireTo target) := { hs with pcAligned := h }

theorem Invariant.retire (hs : Invariant s) : Invariant s.retire := hs.retireTo (ialigned_add_four hs.pcAligned)

theorem Invariant.setX (hs : Invariant s) (r : Reg) (v : Word) : Invariant (s.setX r v) := by
  unfold State.setX
  split
  · exact hs
  · exact { hs with }

theorem Invariant.raise (hs : Invariant s) (e : Exception) : Invariant (s.raise e) :=
  { hs with
    pcAligned := ialigned_trapTarget s.cfg s
    mepcAligned := hs.pcAligned
    privMachine := rfl
    mcauseSupported := mcauseLegal_of_hardwareCause (hardwareCause_raise s e) }

theorem Invariant.interruptEntry (hs : Invariant s) (i : Interrupt) : Invariant (s.interruptEntry i) :=
  { hs with
    pcAligned := ialigned_trapTarget s.cfg s
    mepcAligned := hs.pcAligned
    privMachine := rfl
    mcauseSupported := mcauseLegal_of_hardwareCause (hardwareCause_interruptEntry s i) }

theorem Invariant.nmiEntry (hs : Invariant s) {v : Word} (hv : s.cfg.nmi = some v) : Invariant (s.nmiEntry v) :=
  { hs with
    pcAligned := hs.params.nmiVectorAligned v hv
    mepcAligned := hs.pcAligned
    privMachine := rfl
    mcauseSupported := mcauseLegal_of_hardwareCause (hardwareCause_nmiEntry s v) }

theorem Invariant.trapReturn (hs : Invariant s) : Invariant s.trapReturn := { hs with pcAligned := hs.mepcAligned }

theorem Invariant.wfiComplete (hs : Invariant s) : Invariant s.wfiComplete :=
  { hs with pcAligned := ialigned_add_four hs.pcAligned }

theorem Invariant.tick (hs : Invariant s) : Invariant s.tick := { hs with }

theorem Invariant.storeRamWord (hs : Invariant s) (a v : Word) : Invariant (s.storeRamWord a v) :=
  { hs with
    memCanonical := writeWord_wf hs.memCanonical a v
    storedRising := markWord_rising hs.storedRising a }

theorem Invariant.writeWord (hs : Invariant s) (a v : Word) : Invariant (s.writeWord a v) := by
  unfold State.writeWord
  cases timerWordAt s.cfg a with
  | none => exact hs.storeRamWord a v
  | some w => cases w <;> exact { hs with }

theorem Invariant.writePmpcfg (hs : Invariant s) (n : Nat) (h : n < 2) (v : Word) : Invariant (s.writePmpcfg n h v) :=
  { hs with
    pmpLegal := fun i => by
      rw [writePmpcfg_getElem]
      split
      · exact pmpCfgAfterWrite_legal (hs.pmpLegal i) _
      · exact hs.pmpLegal i }

theorem Invariant.writePmpaddr (hs : Invariant s) (n : Nat) (h : n < 8) (v : Word) :
    Invariant (s.writePmpaddr n h v) := by
  rw [writePmpaddr_shape]
  refine { hs with pmpaddrGrain := fun i => ?_ }
  dsimp only
  rw [writePmpaddr_getElem]
  split
  · exact pmpaddrLegal_grain v
  · exact hs.pmpaddrGrain i

/-- `mepc`, `mcause` and the PMP registers take legal values only; no other CSR is in the invariant. -/
theorem Invariant.csrWrite (hs : Invariant s) (c : Csr) (v : Word) : Invariant (s.csrWrite c v) := by
  cases c
  case mepc => exact { hs with mepcAligned := ialigned_mepcLegal s.cfg v }
  case mcause =>
    refine { hs with mcauseSupported := ?_ }
    simp only [State.csrWrite]
    split
    · assumption
    · exact hs.mcauseSupported
  case pmpcfg n =>
    simp only [State.csrWrite]
    split
    · exact hs.writePmpcfg n _ v
    · exact hs
  case pmpaddr n =>
    simp only [State.csrWrite]
    split
    · exact hs.writePmpaddr n _ v
    · exact hs
  all_goals exact { hs with }

theorem Invariant.csrCommit (hs : Invariant s) (c : Csr) (writes : Bool) (v : Word) :
    Invariant (s.csrCommit c writes v) := by
  unfold State.csrCommit
  split
  · exact { hs.csrWrite c v with }
  · exact hs

theorem Invariant.csrRetire (hs : Invariant s) (c : Csr) (writes : Bool) : Invariant (s.csrRetire c writes) := by
  unfold State.csrRetire
  split
  · exact { hs with pcAligned := ialigned_add_four hs.pcAligned }
  · exact hs.retire

theorem Invariant.eventPoint (hs : Invariant s) {b : State} (hb : EventPoint s b) : Invariant b := by
  cases hb with
  | atPc => exact hs
  | pastWfi => exact hs.wfiComplete

/-! ### The invariant under every step -/

theorem Invariant.exec (hs : Invariant s) {i : Instr} {u : State} (h : ExecShape i s u) : Invariant u := by
  cases h with
  | trap e h => subst h; exact hs.raise e
  | compute rd v target hp h =>
    subst h
    exact (hs.setX rd v).retireTo (by simpa using hp hs.pcAligned)
  | ret _ h => subst h; exact hs.trapReturn
  | stall _ h => subst h; exact { hs with }
  | wake _ h => subst h; exact hs.wfiComplete
  | store a v _ h => subst h; exact (hs.writeWord a v).retire
  | fenceI h =>
    subst h
    have hempty : Invariant { s with stored := [] } := { hs with storedRising := .nil }
    exact hempty.retire
  | csr _ c writes v rd h => subst h; exact ((hs.csrCommit c writes v).setX rd _).csrRetire c writes

theorem Invariant.stepEffect (hs : Invariant s) {u : State} (h : StepEffect s u) : Invariant u := by
  cases h with
  | idle h => exact h ▸ hs
  | wake h => subst h; exact hs.wfiComplete
  | nmi b hb v hv h => subst h; exact (hs.eventPoint hb).nmiEntry (hb.cfg_eq ▸ nmi_of_nmiDue hv)
  | interrupt b hb i h => subst h; exact (hs.eventPoint hb).interruptEntry i
  | raise e h => subst h; exact hs.raise e
  | instr i _ h => exact hs.exec h

end Keeps

/-- Settles O51: each effect of a step keeps the invariant, and so does the platform's tick. -/
theorem invariantIsKept : Obligations.InvariantIsKept := by
  intro s t hs h
  obtain ⟨u, rfl, hu⟩ := step_effect h
  exact (hs.stepEffect hu).tick

end Sys2Proof.Safety

/-! PROOFS. The CSR address map (11_csr_address_map.md): which addresses hold a register, and which follow a parameter. -/

namespace Sys2Proof.Machine

/-! ### Which CSR addresses hold a register (R102 to R106) -/

/-- The addresses that hold a register under some parameters: `ssp` and `jvt`, the machine-level registers, the trigger unit,
the counters with their shadows, and the information registers. -/
def MappedAddress (a : CsrAddr) : Prop :=
  a.toNat = 0x011 ∨ a.toNat = 0x017 ∨ (0x300 ≤ a.toNat ∧ a.toNat ≤ 0x301) ∨ (0x304 ≤ a.toNat ∧ a.toNat ≤ 0x305) ∨
    a.toNat = 0x310 ∨ (0x323 ≤ a.toNat ∧ a.toNat ≤ 0x344) ∨ (0x3A0 ≤ a.toNat ∧ a.toNat ≤ 0x3EF) ∨
    (0x7A0 ≤ a.toNat ∧ a.toNat ≤ 0x7AF) ∨ a.toNat = 0xB00 ∨ (0xB02 ≤ a.toNat ∧ a.toNat ≤ 0xB1F) ∨
    a.toNat = 0xB80 ∨ (0xB82 ≤ a.toNat ∧ a.toNat ≤ 0xB9F) ∨ (0xC00 ≤ a.toNat ∧ a.toNat ≤ 0xC1F) ∨
    (0xC80 ≤ a.toNat ∧ a.toNat ≤ 0xC9F) ∨ (0xF11 ≤ a.toNat ∧ a.toNat ≤ 0xF15)

/-- No row of the address map lies outside these ranges. -/
theorem csrAt_eq_none {a : CsrAddr} (h : ¬ MappedAddress a) : csrAt a = none := by
  unfold MappedAddress at h
  simp (disch := omega) only [csrAt, if_neg]

theorem lookupCsr_of_csrAt_none {a : CsrAddr} (h : csrAt a = none) (cfg : Config.Params) :
    lookupCsr cfg a = .absent := by
  unfold lookupCsr
  rw [h]

/-- The privilege field of a CSR address, csr[9:8] (R101). -/
theorem toNat_privilegeField (a : CsrAddr) : (a.extractLsb' 8 2).toNat = a.toNat / 256 % 4 := by
  simp [BitVec.extractLsb'_toNat, Nat.shiftRight_eq_div_pow]

/-- Every mapped register is at an unprivileged or a machine-level address. -/
theorem MappedAddress.privilegeField {a : CsrAddr} (h : MappedAddress a) :
    a.extractLsb' 8 2 ≠ 0b01#2 ∧ a.extractLsb' 8 2 ≠ 0b10#2 := by
  simp only [ne_eq, ← BitVec.toNat_inj, toNat_privilegeField, BitVec.toNat_ofNat]
  unfold MappedAddress at h
  omega

/-! ### Registers that exist where a parameter says so (R106, R9) -/

/-- The shadows that `HAS_ZICNTR` governs. -/
def Csr.zicntrShadow : Csr → Bool
  | .cycle | .time | .instret | .cycleh | .timeh | .instreth => true
  | _ => false

/-- The shadows that `HAS_ZIHPM` governs. -/
def Csr.zihpmShadow : Csr → Bool
  | .hpmcounter _ | .hpmcounterh _ => true
  | _ => false

theorem lookupCsr_zicntrShadow {a : CsrAddr} {c : Csr} (h : csrAt a = some c) (hc : c.zicntrShadow = true)
    (cfg : Config.Params) : lookupCsr cfg a = if cfg.hasZicntr then .present c else .absent := by
  unfold lookupCsr
  rw [h]
  cases c with
  | cycle | time | instret | cycleh | timeh | instreth => rfl
  | _ => cases hc

theorem lookupCsr_zihpmShadow {a : CsrAddr} {c : Csr} (h : csrAt a = some c) (hc : c.zihpmShadow = true)
    (cfg : Config.Params) : lookupCsr cfg a = if cfg.hasZihpm then .present c else .absent := by
  unfold lookupCsr
  rw [h]
  cases c with
  | hpmcounter | hpmcounterh => rfl
  | _ => cases hc

theorem lookupCsr_trigger {a : CsrAddr} (h : csrAt a = some .trigger) (cfg : Config.Params) :
    lookupCsr cfg a = if cfg.hasTriggers then .outside .triggerCsr else .absent := by
  unfold lookupCsr
  rw [h]

theorem csrAt_zicntrAddress {a : CsrAddr}
    (h : (0xC00 ≤ a.toNat ∧ a.toNat ≤ 0xC02) ∨ (0xC80 ≤ a.toNat ∧ a.toNat ≤ 0xC82)) :
    ∃ c, csrAt a = some c ∧ c.zicntrShadow = true := by
  have hcases : a.toNat = 0xC00 ∨ a.toNat = 0xC01 ∨ a.toNat = 0xC02 ∨ a.toNat = 0xC80 ∨ a.toNat = 0xC81 ∨
      a.toNat = 0xC82 := by omega
  rcases hcases with h | h | h | h | h | h
  · exact ⟨.cycle, by simp [csrAt, h], rfl⟩
  · exact ⟨.time, by simp [csrAt, h], rfl⟩
  · exact ⟨.instret, by simp [csrAt, h], rfl⟩
  · exact ⟨.cycleh, by simp [csrAt, h], rfl⟩
  · exact ⟨.timeh, by simp [csrAt, h], rfl⟩
  · exact ⟨.instreth, by simp [csrAt, h], rfl⟩

theorem csrAt_zihpmAddress {a : CsrAddr}
    (h : (0xC03 ≤ a.toNat ∧ a.toNat ≤ 0xC1F) ∨ (0xC83 ≤ a.toNat ∧ a.toNat ≤ 0xC9F)) :
    ∃ c, csrAt a = some c ∧ c.zihpmShadow = true := by
  rcases h with h | h
  · exact ⟨.hpmcounter (a.toNat - 0xC00), by simp (disch := omega) only [csrAt, if_pos, if_neg], rfl⟩
  · exact ⟨.hpmcounterh (a.toNat - 0xC80), by simp (disch := omega) only [csrAt, if_pos, if_neg], rfl⟩

theorem csrAt_triggerAddress {a : CsrAddr} (h : 0x7A0 ≤ a.toNat ∧ a.toNat ≤ 0x7AF) : csrAt a = some .trigger := by
  simp (disch := omega) only [csrAt, if_pos, if_neg]

/-- Settles O22: the ranges of the first clause hold no mapped address, and each optional group is looked up by its parameter. -/
theorem absentCsrAddresses : Obligations.AbsentCsrAddresses := by
  refine ⟨fun cfg a ha => lookupCsr_of_csrAt_none (csrAt_eq_none fun hm => ?_) cfg,
    fun cfg a => ⟨fun hoff ha => ?_, fun hoff ha => ?_, fun ha => ?_⟩, fun cfg => ⟨rfl, rfl⟩⟩
  · obtain ⟨hsupervisor, hhypervisor⟩ := hm.privilegeField
    simp only [hsupervisor, hhypervisor, false_or, ne_eq, ← BitVec.toNat_inj, BitVec.toNat_ofNat] at ha
    unfold MappedAddress at hm
    omega
  · obtain ⟨c, hat, hc⟩ := csrAt_zicntrAddress ha
    simp [lookupCsr_zicntrShadow hat hc, hoff]
  · obtain ⟨c, hat, hc⟩ := csrAt_zihpmAddress ha
    simp [lookupCsr_zihpmShadow hat hc, hoff]
  · exact lookupCsr_trigger (csrAt_triggerAddress ha) cfg

end Sys2Proof.Machine

/-! PROOFS. The memory family (20_memory.md): what a failed check raises, what a fetch comes to at each of its checks, a word
stored and loaded back, and which targets are misaligned. -/

namespace Sys2Proof.Machine

open Sys2Proof.Safety
open Sys2Proof.Config (AccessType)

/-! ### Trap entry (R330) -/

/-- Trap entry is the whole effect that the claims ask of a trap. -/
theorem trapTaken_trapEntry (s : State) (isInterrupt : Bool) (code : BitVec 31) (epc : Word) :
    TrapTaken s (s.trapEntry isInterrupt code epc) (BitVec.ofBool isInterrupt ++ code) epc where
  mepc := rfl
  mcause := rfl
  mtval := rfl
  mpie := rfl
  mie := rfl
  priv := rfl
  pc := rfl
  stalled := rfl
  minstret := rfl
  regs := getX_trapEntry s isInterrupt code epc
  memory := ⟨byteAt_of_mem rfl, rfl⟩
  csrs := by constructor <;> rfl
  inputs := by constructor <;> rfl
  timer := by constructor <;> rfl
  deferral := by constructor <;> rfl

/-- What a synchronous exception writes to `mcause`: the code, below a clear interrupt bit (R303). -/
def Exception.cause (e : Exception) : Word := BitVec.ofBool false ++ e.code

theorem trapTaken_raise (s : State) (e : Exception) : TrapTaken s (s.raise e) e.cause s.pc :=
  trapTaken_trapEntry s false e.code s.pc

theorem raises_of_exec {i : Instr} {s : State} {e : Exception} (h : exec i s = .next (s.raise e)) :
    Raises i s e.cause := ⟨_, h, trapTaken_raise s e⟩

/-! ### One parcel (R130, R143) -/

theorem parcelAllowed_eq_false (s : State) (a : Word) :
    s.parcelAllowed a = false ↔ s.pmpAllows a 2 .execute = false ∨ pmaOk s.cfg a 2 .execute = false := by
  simp only [State.parcelAllowed, Bool.and_eq_false_iff]

theorem parcelRefusal_eq (s : State) (a : Word) :
    s.parcelRefusal a =
      if touchesTimer s.cfg a 2 then some .timerFetched
      else if a.toNat ∈ s.stored ∨ (a + 1#32).toNat ∈ s.stored then some .storedByteFetched
      else none := by
  simp only [State.parcelRefusal, byteAddress, Bool.or_eq_true, List.contains_iff_mem]

theorem parcelRefusal_storedByte {s : State} {a : Word} (ht : touchesTimer s.cfg a 2 = false)
    (hst : a.toNat ∈ s.stored ∨ (a + 1#32).toNat ∈ s.stored) : s.parcelRefusal a = some .storedByteFetched := by
  rw [parcelRefusal_eq, if_neg (by simp [ht]), if_pos hst]

theorem parcelRefusal_fetchable {s : State} {a : Word} (h : ParcelFetchable s a) : s.parcelRefusal a = none := by
  rw [parcelRefusal_eq, if_neg (by simp [h.notTimer]), if_neg (not_or.mpr h.notStored)]

/-- The low bits of a parcel, which say whether it is a whole instruction, are those of its first byte (R204). -/
theorem isCompressed_parcelAt (s : State) (a : Word) :
    isCompressed (s.parcelAt a) = ((s.byteAt a).extractLsb' 0 2 != 0b11#2) := by
  rw [isCompressed, State.parcelAt, BitVec.extractLsb'_append_eq_of_add_le (by omega)]

/-! ### Fetch, check by check (R130) -/

theorem fetch_denied {s : State} (h : s.parcelAllowed s.pc = false) : s.fetch = .trap .instructionAccessFault := by
  simp [State.fetch, h]

theorem fetch_refused {s : State} {r : Refusal} (ha : s.parcelAllowed s.pc = true) (h : s.parcelRefusal s.pc = some r) :
    s.fetch = .refuse r := by
  simp [State.fetch, ha, h]

/-- A 32-bit instruction whose first parcel can be fetched comes to what its second parcel comes to. -/
theorem fetch_twoParcels {s : State} (h : ParcelFetchable s s.pc) (htwo : TakesTwoParcels s) :
    s.fetch = s.fetchSecond (s.parcelAt s.pc) := by
  have hnot : (isCompressed (s.parcelAt s.pc) && s.cfg.extC) = false := by
    rw [isCompressed_parcelAt]
    rcases htwo with hlow | hwide
    · simp [hlow]
    · simp [hwide]
  simp [State.fetch, h.allowed, parcelRefusal_fetchable h, hnot]

theorem fetchSecond_denied {s : State} (hw : s.pc.toNat ≤ 2 ^ 32 - 4) (h : s.parcelAllowed (s.pc + 2#32) = false)
    (p : Parcel) : s.fetchSecond p = .trap .instructionAccessFault := by
  rw [State.fetchSecond, if_neg (Nat.not_lt.mpr hw)]
  simp [byteAddress, h]

theorem fetchSecond_refused {s : State} {r : Refusal} (hw : s.pc.toNat ≤ 2 ^ 32 - 4)
    (ha : s.parcelAllowed (s.pc + 2#32) = true) (hspan : s.fetchSpanPasses s.pc = true)
    (h : s.parcelRefusal (s.pc + 2#32) = some r) (p : Parcel) : s.fetchSecond p = .refuse r := by
  rw [State.fetchSecond, if_neg (Nat.not_lt.mpr hw)]
  simp [byteAddress, ha, hspan, h]

/-! ### The step where fetch delivers nothing -/

theorem step_instruction {s : State} (h : NoEvent s) : step s = s.runInstruction.tick := by
  obtain ⟨hstalled, hevent⟩ := (noEvent_iff s).mp h
  exact step_noEvent hstalled hevent

theorem step_fetch_trap {s : State} {e : Exception} (h : NoEvent s) (hf : s.fetch = .trap e) :
    ∃ t, step s = .next t.tick ∧ TrapTaken s t e.cause s.pc := by
  refine ⟨s.raise e, ?_, trapTaken_raise s e⟩
  rw [step_instruction h, State.runInstruction, hf]
  rfl

theorem step_fetch_refuse {s : State} {r : Refusal} (h : NoEvent s) (hf : s.fetch = .refuse r) :
    step s = .refused r := by
  rw [step_instruction h, State.runInstruction, hf]
  rfl

/-- Settles O8: the check of either parcel that fails makes the fetch a trap. -/
theorem deniedFetchTraps : Obligations.DeniedFetchTraps := by
  refine ⟨fun s hn hdeny => ?_, fun s hn hfirst htwo hw hdeny => ?_⟩
  · exact step_fetch_trap hn (fetch_denied ((parcelAllowed_eq_false s s.pc).mpr hdeny))
  · have hsecond := fetchSecond_denied hw ((parcelAllowed_eq_false s _).mpr hdeny) (s.parcelAt s.pc)
    exact step_fetch_trap hn ((fetch_twoParcels hfirst htwo).trans hsecond)

/-- Settles O9: past the checks of either parcel, the marking of one of its bytes stops the fetch. -/
theorem storedByteFetchIsRefused : Obligations.StoredByteFetchIsRefused := by
  refine ⟨fun s hn ha ht hst => ?_, fun s hn hfirst htwo hw ha hspan ht hst => ?_⟩
  · exact step_fetch_refuse hn (fetch_refused ha (parcelRefusal_storedByte ht hst))
  · have hst' : (s.pc + 2#32).toNat ∈ s.stored ∨ (s.pc + 2#32 + 1#32).toNat ∈ s.stored := by
      rwa [BitVec.add_assoc]
    have hsecond := fetchSecond_refused hw ha hspan (parcelRefusal_storedByte ht hst') (s.parcelAt s.pc)
    exact step_fetch_refuse hn ((fetch_twoParcels hfirst htwo).trans hsecond)

/-! ### The checks of an explicit access (R131) -/

section Check

variable {s : State} {a : Word} {n : Nat} {t : AccessType}

/-- Denied by the PMA, or by the PMP however the implementation splits the access (D18). -/
theorem checkAccess_denied
    (h : pmaOk s.cfg a n t = false ∨ (s.pmpAllows a n t = false ∧ s.pmpAllowsSplit a n t = false)) :
    s.checkAccess a n t = .accessFault := by
  rcases h with hpma | ⟨hwhole, hsplit⟩
  · simp [State.checkAccess, hpma]
  · simp [State.checkAccess, State.dataPmpPasses, hwhole, hsplit]

theorem checkAccess_misaligned (hmis : a.toNat % n ≠ 0) (hpmp : s.pmpAllows a n t = true)
    (hpma : pmaOk s.cfg a n t = true) :
    s.checkAccess a n t = if touchesTimer s.cfg a n then .timerMisaligned else .misaligned := by
  simp [State.checkAccess, State.dataPmpPasses, hmis, hpmp, hpma]

/-- A misaligned access is never allowed: what its place asks for, or the access fault. -/
theorem checkAccess_misaligned_cases (hmis : a.toNat % n ≠ 0) :
    (s.checkAccess a n t = if touchesTimer s.cfg a n then .timerMisaligned else .misaligned) ∨
    s.checkAccess a n t = .accessFault := by
  rcases checkAccess_cases s a n t with ⟨h, _⟩ | ⟨h, _, _, _, ht⟩ | ⟨h, _, _, _, ht⟩ | ⟨_, _, _, hal⟩
  · exact .inr h
  · exact .inl (by simp [h, ht])
  · exact .inl (by simp [h, ht])
  · exact absurd hal hmis

theorem aligned_of_checkAccess_allowed (h : s.checkAccess a n t = .allowed) : a.toNat % n = 0 := by
  by_contra hmis
  have hcases := checkAccess_misaligned_cases (s := s) (t := t) hmis
  cases ht : touchesTimer s.cfg a n <;> simp [h, ht] at hcases

end Check

/-- The instruction `i` makes a word access of type `t` at `a`, and what it does where the check fails depends on the check alone:
the two causes of its type of access, and the stop at a timer register. -/
structure AnswersCheck (i : Instr) (s : State) (a : Word) (t : AccessType) (faultCause misalignedCause : Word) : Prop where
  onFault : s.checkAccess a 4 t = .accessFault → Raises i s faultCause
  onMisaligned : s.checkAccess a 4 t = .misaligned → Raises i s misalignedCause
  onTimer : s.checkAccess a 4 t = .timerMisaligned → exec i s = .refused .timerMisaligned

theorem answersCheck_lw (s : State) (rd rs1 : Reg) (imm12 : BitVec 12) :
    AnswersCheck (.lw rd rs1 imm12) s (s.effectiveAddress rs1 imm12) .read 5#32 4#32 where
  onFault h := raises_of_exec (e := .loadAccessFault) (by simp [exec, execLw, h])
  onMisaligned h := raises_of_exec (e := .loadAddressMisaligned) (by simp [exec, execLw, h])
  onTimer h := by simp [exec, execLw, h]

theorem answersCheck_sw (s : State) (rs2 rs1 : Reg) (imm12 : BitVec 12) :
    AnswersCheck (.sw rs2 rs1 imm12) s (s.effectiveAddress rs1 imm12) .write 7#32 6#32 where
  onFault h := raises_of_exec (e := .storeAccessFault) (by simp [exec, execSw, h])
  onMisaligned h := raises_of_exec (e := .storeAddressMisaligned) (by simp [exec, execSw, h])
  onTimer h := by simp [exec, execSw, h]

namespace AnswersCheck

variable {i : Instr} {s : State} {a : Word} {t : AccessType} {faultCause misalignedCause : Word}

theorem misaligned_memory (hi : AnswersCheck i s a t faultCause misalignedCause) (hmis : a.toNat % 4 ≠ 0)
    (hmem : ¬ TouchesTimer s.cfg a) :
    (s.pmpAllows a 4 t = true → pmaOk s.cfg a 4 t = true → Raises i s misalignedCause) ∧
    (Raises i s misalignedCause ∨ Raises i s faultCause) := by
  rw [← touchesTimer_word] at hmem
  refine ⟨fun hpmp hpma => hi.onMisaligned ?_, ?_⟩
  · simpa [hmem] using checkAccess_misaligned hmis hpmp hpma
  · have hcheck := checkAccess_misaligned_cases (s := s) (t := t) hmis
    rw [if_neg hmem] at hcheck
    exact hcheck.imp hi.onMisaligned hi.onFault

theorem misaligned_timer (hi : AnswersCheck i s a t faultCause misalignedCause) (hmis : a.toNat % 4 ≠ 0)
    (htimer : TouchesTimer s.cfg a) :
    (s.pmpAllows a 4 t = true → pmaOk s.cfg a 4 t = true → exec i s = .refused .timerMisaligned) ∧
    (exec i s = .refused .timerMisaligned ∨ Raises i s faultCause) := by
  rw [← touchesTimer_word] at htimer
  refine ⟨fun hpmp hpma => hi.onTimer ?_, ?_⟩
  · simpa [htimer] using checkAccess_misaligned hmis hpmp hpma
  · have hcheck := checkAccess_misaligned_cases (s := s) (t := t) hmis
    rw [if_pos htimer] at hcheck
    exact hcheck.imp hi.onTimer hi.onFault

end AnswersCheck

/-- Settles O40: LW and SW answer a failed check in the same way, each with the causes of its type of access. -/
theorem dataAccessFaults : Obligations.DataAccessFaults := by
  rintro s r rs1 imm12 _ rfl
  have hlw := answersCheck_lw s r rs1 imm12
  have hsw := answersCheck_sw s r rs1 imm12
  exact ⟨fun h => hlw.onFault (checkAccess_denied h), hlw.misaligned_memory, hlw.misaligned_timer,
    fun h => hsw.onFault (checkAccess_denied h), hsw.misaligned_memory, hsw.misaligned_timer⟩

/-! ### A word of main memory, stored and loaded back (R121, R131) -/

theorem bytes_append (v : Word) :
    v.extractLsb' 24 8 ++ v.extractLsb' 16 8 ++ v.extractLsb' 8 8 ++ v.extractLsb' 0 8 = v := by
  rw [BitVec.extractLsb'_append_extractLsb'_eq_extractLsb' (show 24 = 16 + 8 from rfl),
    BitVec.extractLsb'_append_extractLsb'_eq_extractLsb' (show 16 = 8 + 8 from rfl),
    BitVec.extractLsb'_append_extractLsb'_eq_extractLsb' (show 8 = 0 + 8 from rfl), BitVec.extractLsb'_eq_self]

theorem ramWord_storeRamWord_same (s : State) (a v : Word) : (s.storeRamWord a v).ramWord a = v := by
  have hbyte : ∀ k, k < 4 → (s.storeRamWord a v).byteAt (byteAddress a k) = v.extractLsb' (8 * k) 8 :=
    fun _ hk => byteAt_storeRamWord_same s a v hk
  have hbyte0 : (s.storeRamWord a v).byteAt a = v.extractLsb' 0 8 := by
    simpa only [byteAddress_zero] using hbyte 0 (by omega)
  rw [State.ramWord, hbyte 3 (by omega), hbyte 2 (by omega), hbyte 1 (by omega), hbyte0]
  exact bytes_append v

/-- Away from the timer registers a word written is the word read back. -/
theorem readWord_writeWord_same {s : State} {a : Word} (h : timerWordAt s.cfg a = none) (v : Word) :
    (s.writeWord a v).readWord a = v := by
  rcases writeWord_cases s a v with ⟨_, hstore⟩ | ⟨htimer, _⟩
  · have hcfg : (s.storeRamWord a v).cfg = s.cfg := rfl
    rw [hstore, State.readWord, hcfg, h]
    exact ramWord_storeRamWord_same s a v
  · exact absurd h htimer

@[simp] theorem readWord_retire (s : State) (a : Word) : s.retire.readWord a = s.readWord a := rfl

/-- An SW that retires passed its checks: an exception counts no retirement, not even modulo 2^64 (R348). -/
theorem exec_sw_retired {s t : State} {rs2 rs1 : Reg} {imm12 : BitVec 12} (h : exec (.sw rs2 rs1 imm12) s = .next t)
    (hret : t.minstret = s.minstret + 1) :
    s.checkAccess (s.effectiveAddress rs1 imm12) 4 .write = .allowed ∧
      t = (s.writeWord (s.effectiveAddress rs1 imm12) (s.getX rs2)).retire := by
  have hcount : s.minstret ≠ s.minstret + 1 := by simp
  simp only [exec, execSw] at h
  split at h
  case h_1 => cases h; exact absurd hret hcount
  case h_2 => cases h; exact absurd hret hcount
  case h_3 => cases h
  case h_4 hcheck => cases h; exact ⟨hcheck, rfl⟩

theorem exec_lw_allowed {s : State} {rd rs1 : Reg} {imm12 : BitVec 12}
    (h : s.checkAccess (s.effectiveAddress rs1 imm12) 4 .read = .allowed) :
    ∃ u, exec (.lw rd rs1 imm12) s = .next u ∧ Computes s u rd (s.readWord (s.effectiveAddress rs1 imm12)) :=
  ⟨_, by simp [exec, execLw, h], computes_setX_retire s rd _⟩

/-- Settles O43: the store that retired was aligned and allowed, so the load is allowed too, and it reads the word written. -/
theorem storeThenLoad : Obligations.StoreThenLoad := by
  intro s t rs2 rs1 rd rs3 imm imm' hsw hret htimer haddr hpmp hpma
  obtain ⟨hcheck, ht⟩ := exec_sw_retired hsw hret
  have hcfg : t.cfg = s.cfg := by simp [ht]
  rw [← hcfg] at hpma
  have hload := checkAccess_allowed hpmp hpma (aligned_of_checkAccess_allowed hcheck)
  have hword : t.readWord (s.effectiveAddress rs1 imm) = s.getX rs2 := by
    rw [ht, readWord_retire, readWord_writeWord_same htimer]
  rw [← haddr] at hload hword
  exact hword ▸ exec_lw_allowed hload

/-! ### The targets of jumps and branches (R123, R281, R282) -/

theorem raises_jal_misaligned {s : State} {offset : BitVec 21} (h : ialigned s.cfg (s.jalTarget offset) = false)
    (rd : Reg) : Raises (.jal rd offset) s 0#32 :=
  raises_of_exec (e := .instructionAddressMisaligned) (by simp [exec, execJal, State.jumpTo, h])

theorem raises_bne_misaligned {s : State} {rs1 rs2 : Reg} {offset : BitVec 13} (hne : s.getX rs1 ≠ s.getX rs2)
    (h : ialigned s.cfg (s.branchTarget offset) = false) : Raises (.bne rs1 rs2 offset) s 0#32 :=
  raises_of_exec (e := .instructionAddressMisaligned) (by simp [exec, execBne, State.jumpTo, hne, h])

/-- Sign extension keeps bit 0. -/
theorem extractLsb'_one_signExtend {n : Nat} (hn : 0 < n) (x : BitVec n) :
    (x.signExtend 32).extractLsb' 0 1 = x.extractLsb' 0 1 := by
  ext i hi
  have hi0 : i = 0 := by omega
  subst hi0
  simp [BitVec.getElem_signExtend, hn]

/-- Where IALIGN = 16 an even displacement leads from an aligned address to an aligned one. -/
theorem ialigned_add_even {cfg : Config.Params} (hc : cfg.extC = true) {a : Word} (ha : ialigned cfg a = true) {n : Nat}
    (hn : 0 < n) {offset : BitVec n} (ho : offset.extractLsb' 0 1 = 0#1) :
    ialigned cfg (a + offset.signExtend 32) = true := by
  rw [ialigned_of_extC hc, beq_iff_eq] at ha ⊢
  rw [BitVec.extractLsb'_add (by omega), extractLsb'_one_signExtend hn, ha, ho]
  rfl

/-- Settles O46: the jump itself raises; and where IALIGN = 16 the offset of a well-formed jump or branch is even. -/
theorem misalignedTargets : Obligations.MisalignedTargets := by
  refine ⟨fun s rd offset h => raises_jal_misaligned h rd, fun s rs1 rs2 offset hne h => raises_bne_misaligned hne h,
    fun s hc hpc => ⟨fun rd offset hwf => ?_, fun rs1 rs2 offset hwf => ?_⟩⟩
  · exact ialigned_add_even hc hpc (by omega) (by simpa [Instr.wellFormed] using hwf)
  · exact ialigned_add_even hc hpc (by omega) (by simpa [Instr.wellFormed] using hwf)

end Sys2Proof.Machine

/-! PROOFS. Physical memory protection (21_pmp.md): what a write to a PMP register does, which entry decides an access, that a
step changes no locked entry, and that a run leaves alone what a locked entry protects from stores. -/

namespace Sys2Proof.Machine

open Sys2Proof.Safety
open Sys2Proof.Config (AccessType)

/-! ### Writing the PMP registers (R163, R170, R171) -/

theorem csrWrite_pmpcfg_eq {s : State} {n : Nat} (h : n < 2) (v : Word) :
    s.csrWrite (.pmpcfg n) v = s.writePmpcfg n h v := by
  simp [State.csrWrite, h]

theorem csrWrite_pmpaddr_eq {s : State} {n : Nat} (h : n < 8) (v : Word) :
    s.csrWrite (.pmpaddr n) v = s.writePmpaddr n h v := by
  simp [State.csrWrite, h]

/-- What an unlocked configuration byte takes is legal, whatever is written to it. -/
theorem pmpCfgAfterWrite_unlocked_legal {old : Byte} (h : pmpL old = false) (w : Byte) :
    pmpLegalByte (pmpCfgAfterWrite old w) = true := by
  simp [pmpCfgAfterWrite, h, pmpLegalize_legal]

theorem writePmpcfg_locked {s : State} {i : Fin 8} (hl : Locked s i) {n : Nat} (h : n < 2) (v : Word) :
    (s.writePmpcfg n h v).pmpcfg[i] = s.pmpcfg[i] := by
  rw [writePmpcfg_getElem, pmpCfgAfterWrite_locked hl, ite_self]

/-- The test a write to `pmpaddrN` makes is the one the claims are stated in. -/
theorem pmpaddrLocked_iff (s : State) (i : Fin 8) : s.pmpaddrLocked i.val i.isLt = true ↔ AddressLocked s i := by
  unfold State.pmpaddrLocked AddressLocked
  by_cases hi : i.val + 1 < 8 <;> simp [hi]

theorem writePmpaddr_ignored {s : State} {i : Fin 8} (hl : AddressLocked s i) (v : Word) :
    s.writePmpaddr i.val i.isLt v = s := by
  simp [State.writePmpaddr, (pmpaddrLocked_iff s i).mpr hl]

theorem writePmpaddr_locked {s : State} {i : Fin 8} (hl : AddressLocked s i) {n : Nat} (h : n < 8) (v : Word) :
    (s.writePmpaddr n h v).pmpaddr[i] = s.pmpaddr[i] := by
  by_cases hn : n = i.val
  · subst hn; rw [writePmpaddr_ignored hl]
  · rw [writePmpaddr_getElem, if_neg fun hw => hn hw.2]

/-- Settles O25: the byte-wise effect of the write, for an entry of the other register, a locked and an unlocked one. -/
theorem pmpcfgWrite : Obligations.PmpcfgWrite := by
  intro s n v hn i
  rw [csrWrite_pmpcfg_eq hn]
  refine ⟨?_, fun hreg hu => ?_⟩
  · rintro (hother | hlocked)
    · rw [writePmpcfg_getElem, if_neg hother]
    · exact writePmpcfg_locked hlocked hn v
  · rw [writePmpcfg_getElem, if_pos hreg]
    exact ⟨pmpCfgAfterWrite_unlocked_legal hu _, pmpCfgAfterWrite_unlocked hu⟩

/-- Settles O26: a locked address register ignores the write, and another one takes it in its own place only. -/
theorem pmpaddrWrite : Obligations.PmpaddrWrite := by
  intro s n v
  rw [csrWrite_pmpaddr_eq n.isLt]
  refine ⟨fun hl => by rw [writePmpaddr_ignored hl], fun hu => ?_⟩
  have hopen : s.pmpaddrLocked n.val n.isLt = false := by rwa [← pmpaddrLocked_iff, Bool.not_eq_true] at hu
  refine ⟨?_, fun m hm => ?_⟩
  · rw [writePmpaddr_getElem, if_pos ⟨hopen, rfl⟩, pmpaddrLegal]
  · rw [writePmpaddr_getElem, if_neg fun hw => hm (Fin.ext hw.2.symm)]

/-! ### The entry that decides (R167, R174, R175) -/

theorem mem_pmpEntries {s : State} {e : PmpEntry} : e ∈ s.pmpEntries ↔ ∃ i, s.pmpEntry i = e := by
  rw [← List.mem_ofFn]
  rfl

theorem getElem_pmpEntries (s : State) {j : Nat} (hj : j < s.pmpEntries.length) :
    s.pmpEntries[j] = s.pmpEntry ⟨j, hj⟩ :=
  Option.some.inj ((List.getElem?_eq_getElem hj).symm.trans (pmpEntries_getElem s ⟨j, hj⟩))

/-- The scan finds the entry that the claims call the first match. -/
theorem find?_firstMatch {s : State} {a : Word} {i : Fin 8} (h : FirstMatch s a i) :
    s.pmpEntries.find? (fun e => e.matchesByte a) = some (s.pmpEntry i) := by
  refine List.find?_eq_some_iff_getElem.mpr ⟨h.1, i.val, i.isLt, getElem_pmpEntries s _, fun j hj => ?_⟩
  have hmiss := h.2 ⟨j, hj.trans i.isLt⟩ hj
  simp [getElem_pmpEntries, hmiss]

/-- An aligned word that the entry `i` decides. -/
theorem pmpAllows_firstMatch {s : State} {a : Word} {i : Fin 8} (ha : a.toNat % 4 = 0) (h : FirstMatch s a i)
    (t : AccessType) : s.pmpAllows a 4 t = (!pmpL s.pmpcfg[i] || (s.pmpEntry i).permits t) := by
  rw [pmpAllows_aligned s a t ha, find?_firstMatch h]
  rfl

theorem pmpAllows_noMatch {s : State} {a : Word} (ha : a.toNat % 4 = 0)
    (h : ∀ i : Fin 8, (s.pmpEntry i).matchesByte a = false) (t : AccessType) : s.pmpAllows a 4 t = true := by
  have hnone : s.pmpEntries.find? (fun e => e.matchesByte a) = none := by
    refine List.find?_eq_none.mpr fun e he => ?_
    obtain ⟨i, rfl⟩ := mem_pmpEntries.mp he
    simp [h i]
  rw [pmpAllows_aligned s a t ha, hnone]

/-- An entry that is OFF matches no byte. -/
theorem matchesByte_off {e : PmpEntry} (h : pmpA e.cfg = 0#2) (a : Word) : e.matchesByte a = false := by
  simp [PmpEntry.matchesByte, h]

/-- A TOR entry matches the addresses between its bounds, in units of four bytes. -/
theorem matchesByte_tor {e : PmpEntry} (h : pmpA e.cfg = 1#2) (a : Word) :
    e.matchesByte a = true ↔ e.lo.toNat ≤ a.toNat / 4 ∧ a.toNat / 4 < e.hi.toNat := by
  simp [PmpEntry.matchesByte, h]

/-- The lower bound of an entry is the address register below it; entry 0 has none to exceed. -/
theorem pmpEntry_lo_le_iff (s : State) (i : Fin 8) (x : Nat) :
    (s.pmpEntry i).lo.toNat ≤ x ↔ ∀ j : Fin 8, j.val + 1 = i.val → s.pmpaddr[j].toNat ≤ x := by
  unfold State.pmpEntry
  split
  case isTrue h0 => simp [h0]
  case isFalse h0 =>
    refine ⟨fun hle j hj => ?_, fun hle => hle ⟨i.val - 1, by omega⟩ (by simp; omega)⟩
    have hji : j.val = i.val - 1 := by omega
    simpa [hji] using hle

/-- Settles O47: the scan stops at the first match, and the permission it answers is that entry's. -/
theorem pmpFirstMatchDecides : Obligations.PmpFirstMatchDecides := by
  intro s a
  refine ⟨fun t ha h => pmpAllows_noMatch ha h t, fun i ha h => ?_, fun i =>
    ⟨fun hoff => matchesByte_off (e := s.pmpEntry i) hoff a, fun htor => ?_⟩⟩
  · exact ⟨pmpAllows_firstMatch ha h .read, pmpAllows_firstMatch ha h .write, pmpAllows_firstMatch ha h .execute⟩
  · rw [matchesByte_tor (e := s.pmpEntry i) htor, pmpEntry_lo_le_iff]
    rfl

/-- Entries that are all OFF deny no access. -/
theorem pmpScan_off (a : Word) (n : Nat) (t : AccessType) (es : List PmpEntry) (h : ∀ e ∈ es, pmpA e.cfg = 0#2) :
    pmpScan a n t es = true := by
  induction es with
  | nil => rfl
  | cons e es ih =>
    rw [pmpScan_cons_miss t es fun _ _ => matchesByte_off (h e (by simp)) _]
    exact ih fun e' he' => h e' (by simp [he'])

/-- Settles O48: an entry that is found is unlocked, so it allows; entries that are OFF are passed over. -/
theorem unlockedPmpDeniesNothing : Obligations.UnlockedPmpDeniesNothing := by
  refine ⟨fun s a t h ha => ?_, fun s a n t h => pmpScan_off a n t _ fun e he => ?_⟩
  · rw [pmpAllows_aligned s a t ha]
    split
    case h_1 => rfl
    case h_2 e hfind =>
      obtain ⟨i, rfl⟩ := mem_pmpEntries.mp (List.mem_of_find?_eq_some hfind)
      have hu : pmpL (s.pmpEntry i).cfg = false := h i
      simp [hu]
  · obtain ⟨i, rfl⟩ := mem_pmpEntries.mp he
    exact h i

/-! ### What a step can do to the PMP registers -/

/-- The PMP registers of `u` are those of `s`, or those of `s` after one write to one of them. -/
inductive PmpChange (s u : State) : Prop
  | same (hcfg : u.pmpcfg = s.pmpcfg) (haddr : u.pmpaddr = s.pmpaddr)
  | config (n : Nat) (h : n < 2) (v : Word) (hcfg : u.pmpcfg = (s.writePmpcfg n h v).pmpcfg)
      (haddr : u.pmpaddr = s.pmpaddr)
  | address (n : Nat) (h : n < 8) (v : Word) (hcfg : u.pmpcfg = s.pmpcfg)
      (haddr : u.pmpaddr = (s.writePmpaddr n h v).pmpaddr)

theorem pmpChange_csrWrite (s : State) (c : Csr) (v : Word) : PmpChange s (s.csrWrite c v) := by
  cases c
  case pmpcfg n =>
    by_cases h : n < 2
    · rw [csrWrite_pmpcfg_eq h]; exact .config n h v rfl rfl
    · exact .same (by simp [State.csrWrite, h]) (by simp [State.csrWrite, h])
  case pmpaddr n =>
    by_cases h : n < 8
    · rw [csrWrite_pmpaddr_eq h]; exact .address n h v (by rw [writePmpaddr_shape]) rfl
    · exact .same (by simp [State.csrWrite, h]) (by simp [State.csrWrite, h])
  all_goals exact .same rfl rfl

/-- A change of the PMP registers is a matter of those registers alone. -/
theorem PmpChange.congr {s u t : State} (h : PmpChange s u) (hcfg : t.pmpcfg = u.pmpcfg)
    (haddr : t.pmpaddr = u.pmpaddr) : PmpChange s t := by
  cases h with
  | same hc ha => exact .same (hcfg.trans hc) (haddr.trans ha)
  | config n h v hc ha => exact .config n h v (hcfg.trans hc) (haddr.trans ha)
  | address n h v hc ha => exact .address n h v (hcfg.trans hc) (haddr.trans ha)

theorem pmpChange_csrCommit (s : State) (c : Csr) (writes : Bool) (v : Word) : PmpChange s (s.csrCommit c writes v) := by
  cases writes with
  | false => exact .same rfl rfl
  | true => exact (pmpChange_csrWrite s c v).congr rfl rfl

theorem ExecShape.pmpChange {i : Instr} {s u : State} (h : ExecShape i s u) : PmpChange s u := by
  cases h with
  | csr _ c writes v rd h => subst h; exact (pmpChange_csrCommit s c writes v).congr (by simp) (by simp)
  | _ => subst u; exact .same (by simp) (by simp)

theorem EventPoint.pmp_eq {s b : State} (hb : EventPoint s b) : b.pmpcfg = s.pmpcfg ∧ b.pmpaddr = s.pmpaddr := by
  cases hb <;> exact ⟨rfl, rfl⟩

theorem StepEffect.pmpChange {s u : State} (h : StepEffect s u) : PmpChange s u := by
  cases h with
  | idle h | wake h | raise _ h => subst h; exact .same rfl rfl
  | nmi _ hb _ _ h | interrupt _ hb _ h => subst h; exact .same hb.pmp_eq.1 hb.pmp_eq.2
  | instr _ _ h => exact h.pmpChange

/-- Everything a step can do to the PMP registers. -/
theorem step_pmpChange {s t : State} (h : step s = .next t) : PmpChange s t := by
  obtain ⟨u, rfl, hu⟩ := step_effect h
  exact hu.pmpChange.congr rfl rfl

/-! ### Locked entries persist (R169, R170, R171) -/

theorem PmpChange.pmpcfg_locked {s u : State} (h : PmpChange s u) {i : Fin 8} (hl : Locked s i) :
    u.pmpcfg[i] = s.pmpcfg[i] := by
  cases h with
  | same hcfg _ | address _ _ _ hcfg _ => rw [hcfg]
  | config n h v hcfg _ => rw [hcfg, writePmpcfg_locked hl]

theorem PmpChange.pmpaddr_locked {s u : State} (h : PmpChange s u) {i : Fin 8} (hl : AddressLocked s i) :
    u.pmpaddr[i] = s.pmpaddr[i] := by
  cases h with
  | same _ haddr | config _ _ _ _ haddr => rw [haddr]
  | address n h v _ haddr => rw [haddr, writePmpaddr_locked hl]

theorem PmpChange.locked {s u : State} (h : PmpChange s u) {i : Fin 8} (hl : Locked s i) : Locked u i := by
  rw [Locked, h.pmpcfg_locked hl]
  exact hl

/-- The address register below a locked TOR entry cannot be written (R171). -/
theorem addressLocked_below {s : State} {i j : Fin 8} (hl : Locked s i) (htor : pmpA s.pmpcfg[i] = 1#2)
    (hj : j.val + 1 = i.val) : AddressLocked s j := by
  obtain ⟨_, hi⟩ := i
  subst hj
  exact .inr ⟨hi, hl, htor⟩

/-- Settles O49: one write to one PMP register is all a step can do to them, and a locked entry's registers ignore it. -/
theorem lockedPmpEntriesPersist : Obligations.LockedPmpEntriesPersist := by
  intro s t h i hl
  have hc := step_pmpChange h
  exact ⟨hc.locked hl, hc.pmpcfg_locked hl, hc.pmpaddr_locked (.inl hl),
    fun htor _ hj => hc.pmpaddr_locked (addressLocked_below hl htor hj)⟩

/-! ### What a step can do to memory -/

/-- Each byte of `u` reads as in `s`, but for the word of an allowed store. -/
def MemoryChange (s u : State) : Prop :=
  ∀ b : Word, u.byteAt b = s.byteAt b ∨
    ∃ a k, s.checkAccess a 4 .write = .allowed ∧ k < 4 ∧ b = byteAddress a k

theorem memoryChange_of_mem {s u : State} (h : u.mem = s.mem) : MemoryChange s u := fun b => .inl (byteAt_of_mem h b)

theorem memoryChange_writeWord {s : State} {a : Word} (hc : s.checkAccess a 4 .write = .allowed) (v : Word) :
    MemoryChange s (s.writeWord a v) := by
  rcases writeWord_cases s a v with ⟨_, hram⟩ | ⟨_, hmem, _⟩
  · intro b
    by_cases hb : ∃ k, k < 4 ∧ b = byteAddress a k
    · obtain ⟨k, hk, e⟩ := hb
      exact .inr ⟨a, k, hc, hk, e⟩
    · rw [hram]
      exact .inl (byteAt_storeRamWord_other s a v fun k hk e => hb ⟨k, hk, e⟩)
  · exact memoryChange_of_mem hmem

theorem ExecShape.memoryChange {i : Instr} {s u : State} (h : ExecShape i s u) : MemoryChange s u := by
  cases h with
  | store a v hc h => subst h; exact memoryChange_writeWord hc v
  | _ => subst u; exact memoryChange_of_mem (by simp)

theorem EventPoint.mem_eq {s b : State} (hb : EventPoint s b) : b.mem = s.mem := by
  cases hb <;> rfl

theorem StepEffect.memoryChange {s u : State} (h : StepEffect s u) : MemoryChange s u := by
  cases h with
  | idle h | wake h | raise _ h => subst h; exact memoryChange_of_mem rfl
  | nmi _ hb _ _ h | interrupt _ hb _ h => subst h; exact memoryChange_of_mem hb.mem_eq
  | instr _ _ h => exact h.memoryChange

/-- Everything a step can do to memory. -/
theorem step_memoryChange {s t : State} (h : step s = .next t) : MemoryChange s t := by
  obtain ⟨u, rfl, hu⟩ := step_effect h
  exact hu.memoryChange

/-! ### A byte protected for good (R169, R171, R174, R177) -/

/-- For an aligned word the draws decide nothing: it lies in one PMP range. -/
theorem dataPmpPasses_aligned {s : State} {a : Word} (ha : a.toNat % 4 = 0) (t : AccessType) :
    s.dataPmpPasses a 4 t = s.pmpAllows a 4 t := by
  rw [State.dataPmpPasses, pmpAllowsSplit_aligned s a t ha]
  cases s.pmpAllows a 4 t <;> rfl

/-- A word access that passes its checks is allowed by the PMP, whatever the draws are. -/
theorem pmpAllows_of_checkAccess {s : State} {a : Word} {t : AccessType} (h : s.checkAccess a 4 t = .allowed) :
    s.pmpAllows a 4 t = true := by
  have ha := aligned_of_checkAccess_allowed h
  rcases checkAccess_cases s a 4 t with ⟨e, _⟩ | ⟨e, _⟩ | ⟨e, _⟩ | ⟨_, hp, _⟩
  · simp [e] at h
  · simp [e] at h
  · simp [e] at h
  · rwa [dataPmpPasses_aligned ha] at hp

/-- Entry `i` decides the byte at `a` and does not let it be written, and nothing can change that: `i` and every entry of
higher priority are locked. -/
structure WriteProtected (s : State) (a : Word) (i : Fin 8) : Prop where
  first : FirstMatch s a i
  locked : ∀ j : Fin 8, j ≤ i → Locked s j
  noWrite : pmpW s.pmpcfg[i] = false

/-- An entry and its bounds stay as they are while the entry and the one below it are locked. -/
theorem PmpChange.pmpEntry_eq {s u : State} (h : PmpChange s u) {i : Fin 8} (hl : ∀ j : Fin 8, j ≤ i → Locked s j) :
    u.pmpEntry i = s.pmpEntry i := by
  have haddr (j : Fin 8) (hj : j ≤ i) : u.pmpaddr[j] = s.pmpaddr[j] := h.pmpaddr_locked (.inl (hl j hj))
  have hbelow (h0 : ¬ i.val = 0) : u.pmpaddr[i.val - 1] = s.pmpaddr[i.val - 1] :=
    haddr ⟨i.val - 1, by omega⟩ (Fin.le_def.mpr (by simp))
  unfold State.pmpEntry
  congr 1
  · split
    · rfl
    · exact hbelow ‹_›
  · exact haddr i le_rfl
  · exact h.pmpcfg_locked (hl i le_rfl)

theorem WriteProtected.after_step {s t : State} {a : Word} {i : Fin 8} (hs : WriteProtected s a i) (h : step s = .next t) :
    WriteProtected t a i := by
  have hc := step_pmpChange h
  have hentry (j : Fin 8) (hj : j ≤ i) : t.pmpEntry j = s.pmpEntry j :=
    hc.pmpEntry_eq fun k hk => hs.locked k (hk.trans hj)
  refine ⟨⟨?_, fun j hj => ?_⟩, fun j hj => hc.locked (hs.locked j hj), ?_⟩
  · rw [hentry i le_rfl]; exact hs.first.1
  · rw [hentry j hj.le]; exact hs.first.2 j hj
  · rw [hc.pmpcfg_locked (hs.locked i le_rfl)]; exact hs.noWrite

/-- The bytes of one aligned word have the same first match (R167). -/
theorem firstMatch_of_byteAddress {s : State} {a : Word} {i : Fin 8} (ha : a.toNat % 4 = 0) {k : Nat} (hk : k < 4)
    (h : FirstMatch s (byteAddress a k) i) : FirstMatch s a i := by
  have heq (j : Fin 8) : (s.pmpEntry j).matchesByte (byteAddress a k) = (s.pmpEntry j).matchesByte a :=
    aligned_matches _ a ha hk
  exact ⟨heq i ▸ h.1, fun j hj => heq j ▸ h.2 j hj⟩

/-- No allowed store reaches a protected byte. -/
theorem WriteProtected.not_stored {s : State} {a : Word} {i : Fin 8} (hs : WriteProtected s a i) {b : Word}
    (hc : s.checkAccess b 4 .write = .allowed) {k : Nat} (hk : k < 4) : a ≠ byteAddress b k := by
  rintro rfl
  have hb := aligned_of_checkAccess_allowed hc
  have hallow : s.pmpAllows b 4 .write = (!pmpL s.pmpcfg[i] || pmpW s.pmpcfg[i]) :=
    pmpAllows_firstMatch hb (firstMatch_of_byteAddress hb hk hs.first) .write
  have hl : pmpL s.pmpcfg[i] = true := hs.locked i le_rfl
  rw [pmpAllows_of_checkAccess hc, hl, hs.noWrite] at hallow
  cases hallow

theorem WriteProtected.byteAt_step {s t : State} {a : Word} {i : Fin 8} (hs : WriteProtected s a i)
    (h : step s = .next t) : t.byteAt a = s.byteAt a := by
  rcases step_memoryChange h a with he | ⟨b, k, hc, hk, e⟩
  · exact he
  · exact absurd e (hs.not_stored hc hk)

/-- A run of one step more is a step and the run from where it leads. -/
theorem run_succ {k : Nat} {s t : State} (h : Host.Core.run Sys2Proof.core (k + 1) s = .next t) :
    ∃ u, step s = .next u ∧ Host.Core.run Sys2Proof.core k u = .next t := by
  simp only [Host.Core.run] at h
  split at h
  case h_1 u hu => exact ⟨u, hu, h⟩
  case h_2 => cases h
  case h_3 => cases h

theorem WriteProtected.byteAt_run {a : Word} {i : Fin 8} {k : Nat} {s t : State} (hs : WriteProtected s a i)
    (h : Host.Core.run Sys2Proof.core k s = .next t) : t.byteAt a = s.byteAt a := by
  induction k generalizing s with
  | zero => cases h; rfl
  | succ k ih =>
    obtain ⟨u, hu, hrun⟩ := run_succ h
    exact (ih (hs.after_step hu) hrun).trans (hs.byteAt_step hu)

/-- Settles O50: the protection keeps itself up along the run, and no step it holds at writes the byte. -/
theorem readOnlyRegionsStayUnmodified : Obligations.ReadOnlyRegionsStayUnmodified :=
  fun _ _ _ _ _ hfirst hlocked hw hrun => WriteProtected.byteAt_run ⟨hfirst, hlocked, hw⟩ hrun

end Sys2Proof.Machine

/-! PROOFS. The encoding family (30_encoding.md): a word decodes to an instruction exactly if that instruction encodes to it,
which words a row of the opcode table holds, and what the bits that are no instruction of this hardware raise. -/

namespace Sys2Proof

open Sys2Proof.Safety

/-! ### Words put together from their fields (R200) -/

theorem encodeI_of_fields {w : Word} {f12 : BitVec 12} {rs1 : Reg} {f3 : BitVec 3} {rd : Reg} {op : BitVec 7}
    (h12 : funct12Of w = f12) (h1 : rs1Of w = rs1) (h3 : funct3Of w = f3) (hd : rdOf w = rd) (hop : opcodeOf w = op) :
    encodeI f12 rs1 f3 rd op = w := by
  subst h12 h1 h3 hd hop; exact encodeI_fields w

theorem encodeR_of_fields {w : Word} {f7 : BitVec 7} {f3 : BitVec 3} {rd : Reg} {op : BitVec 7}
    (h7 : funct7Of w = f7) (h3 : funct3Of w = f3) (hd : rdOf w = rd) (hop : opcodeOf w = op) :
    encodeR f7 (rs2Of w) (rs1Of w) f3 rd op = w := by
  subst h7 h3 hd hop; exact encodeR_fields w

theorem encodeS_of_fields {w : Word} {f3 : BitVec 3} {op : BitVec 7} (h3 : funct3Of w = f3) (hop : opcodeOf w = op) :
    encodeS (immSOf w) (rs2Of w) (rs1Of w) f3 op = w := by
  subst h3 hop; exact encodeS_fields w

theorem encodeB_of_fields {w : Word} {f3 : BitVec 3} {op : BitVec 7} (h3 : funct3Of w = f3) (hop : opcodeOf w = op) :
    encodeB (offsetBOf w) (rs2Of w) (rs1Of w) f3 op = w := by
  subst h3 hop; exact encodeB_fields w

theorem encodeU_of_fields {w : Word} {op : BitVec 7} (hop : opcodeOf w = op) : encodeU (imm20Of w) (rdOf w) op = w := by
  subst hop; exact encodeU_fields w

theorem encodeJ_of_fields {w : Word} {op : BitVec 7} (hop : opcodeOf w = op) : encodeJ (offsetJOf w) (rdOf w) op = w := by
  subst hop; exact encodeJ_fields w

/-! ### The decoder on words, both ways (R211) -/

/-- The word is the 32-bit encoding of the instruction, which is one that an encoding can hold. -/
structure Instr.EncodesTo (i : Instr) (w : Word) : Prop where
  wellFormed : i.wellFormed = true
  bits : encodeRaw i = .word w

theorem Instr.EncodesTo.ne_cEbreak {i : Instr} {w : Word} (h : i.EncodesTo w) : i ≠ .cEbreak := by
  rintro rfl; cases h.bits

theorem Instr.EncodesTo.of_eq {i : Instr} {v w : Word} (hwf : i.wellFormed = true) (hbits : encodeRaw i = .word v)
    (h : v = w) : i.EncodesTo w := ⟨hwf, h ▸ hbits⟩

/-- The low bits of an encoded word say that it is one (R204). -/
theorem Instr.EncodesTo.lowBits {i : Instr} {w : Word} (h : i.EncodesTo w) : (opcodeOf w).extractLsb' 0 2 = 0b11#2 := by
  obtain ⟨-, hw⟩ := h
  cases i with
  | cEbreak => cases hw
  | ecall | ebreak | mret | sret | wfi | mnret | dret | sfenceWInval | sfenceInvalIr | sctrclr => cases hw; rfl
  | sfenceVma | sinvalVma | hfenceVvma | hfenceGvma | hinvalVvma | hinvalGvma | hlvHsv => cases hw; rw [opcodeOf_encodeR]; rfl
  | csrrw | csrrs | csrrc | csrrwi | csrrsi | csrrci | addi | lw | fence | fenceI => cases hw; rw [opcodeOf_encodeI]; rfl
  | lui | auipc => cases hw; rw [opcodeOf_encodeU]; rfl
  | sw => cases hw; rw [opcodeOf_encodeS]; rfl
  | jal => cases hw; rw [opcodeOf_encodeJ]; rfl
  | bne => cases hw; rw [opcodeOf_encodeB]; rfl

/-- The decoder reads an encoded word back, format by format. -/
theorem Instr.EncodesTo.decodeWord_eq {i : Instr} {w : Word} (h : i.EncodesTo w) : decodeWord w = .instr i := by
  obtain ⟨hwf, hw⟩ := h
  cases i with
  | cEbreak => cases hw
  | ecall | ebreak | mret | sret | wfi | mnret | dret | sfenceWInval | sfenceInvalIr | sctrclr => cases hw; rfl
  | sfenceVma | sinvalVma | hfenceVvma | hfenceGvma | hinvalVvma | hinvalGvma =>
    cases hw; simp [decodeWord, decodeSystem, decodePriv]
  | csrrw | csrrs | csrrc | csrrwi | csrrsi | csrrci | hlvHsv => cases hw; simp [decodeWord, decodeSystem]
  | lui | auipc | addi | lw | sw | fenceI => cases hw; simp [decodeWord]
  | fence => cases hw; simp [decodeWord, fence_fm, fence_pred, fence_succ]
  | jal => cases hw; simp [decodeWord, offsetJOf_encodeJ _ _ _ (eq_of_beq hwf)]
  | bne => cases hw; simp [decodeWord, offsetBOf_encodeB _ _ _ _ _ (eq_of_beq hwf)]

/-- What an answer of the decoder says of the word: an instruction is one that encodes to it, and a word of the SYSTEM opcode is
rejected only as reserved (R208). -/
def Decoded.Fits (w : Word) : Decoded → Prop
  | .instr i => i.EncodesTo w
  | .reject e => opcodeOf w = 0b1110011#7 → e = .reservedSystem

/-- The PRIV listing in the order of its tests: the six rows named by `funct7`, then the ten named by `funct12` (R206). -/
theorem decodePriv_fits {w : Word} (hop : opcodeOf w = 0b1110011#7) (h3 : funct3Of w = 0b000#3) :
    (decodePriv w).Fits w := by
  have reserved : (Decoded.reject .reservedSystem).Fits w := fun _ => rfl
  refine iteInduction (fun _ => reserved) fun hd => ?_
  have hd : rdOf w = 0#5 := not_not.mp hd
  have fence {f7 : BitVec 7} (h7 : funct7Of w = f7) := encodeR_of_fields h7 h3 hd hop
  iterate 6 refine iteInduction (fun h => .of_eq rfl rfl (fence h)) fun _ => ?_
  refine iteInduction (fun _ => reserved) fun h1 => ?_
  have named {f12 : BitVec 12} (h12 : funct12Of w = f12) : encodePriv f12 = w :=
    encodeI_of_fields h12 (not_not.mp h1) h3 hd hop
  iterate 10 refine iteInduction (fun h => .of_eq rfl rfl (named h)) fun _ => ?_
  exact reserved

theorem decodeSystem_fits {w : Word} (hop : opcodeOf w = 0b1110011#7) : (decodeSystem w).Fits w := by
  have csr {f3 : BitVec 3} (h3 : funct3Of w = f3) := encodeI_of_fields rfl rfl h3 rfl hop
  refine iteInduction (fun h => decodePriv_fits hop h) fun h0 => ?_
  refine iteInduction (fun h => .of_eq rfl rfl (csr h)) fun h1 => ?_
  refine iteInduction (fun h => .of_eq rfl rfl (csr h)) fun h2 => ?_
  refine iteInduction (fun h => .of_eq rfl rfl (csr h)) fun h3 => ?_
  refine iteInduction (fun h => .of_eq rfl rfl (encodeR_of_fields rfl h rfl hop)) fun h4 => ?_
  refine iteInduction (fun h => .of_eq rfl rfl (csr h)) fun h5 => ?_
  refine iteInduction (fun h => .of_eq rfl rfl (csr h)) fun h6 => ?_
  exact .of_eq rfl rfl (csr (funct3_seven _ h0 h1 h2 h3 h4 h5 h6))

theorem decodeWord_fits (w : Word) : (decodeWord w).Fits w := by
  refine iteInduction decodeSystem_fits fun hns => ?_
  have rejected (e : DecodeError) : (Decoded.reject e).Fits w := fun hop => absurd hop hns
  refine iteInduction (fun hop => .of_eq rfl rfl (encodeU_of_fields hop)) fun _ => ?_
  refine iteInduction (fun hop => .of_eq rfl rfl (encodeU_of_fields hop)) fun _ => ?_
  refine iteInduction (fun hop => .of_eq (beq_iff_eq.mpr (offsetJOf_even w)) rfl (encodeJ_of_fields hop)) fun _ => ?_
  refine iteInduction (fun hop => iteInduction (fun h3 => ?addi) fun _ => rejected _) fun _ => ?_
  case addi => exact .of_eq rfl rfl (encodeI_of_fields rfl rfl h3 rfl hop)
  refine iteInduction (fun hop => iteInduction (fun h3 => ?lw) fun _ => rejected _) fun _ => ?_
  case lw => exact .of_eq rfl rfl (encodeI_of_fields rfl rfl h3 rfl hop)
  refine iteInduction (fun hop => iteInduction (fun h3 => ?sw) fun _ => rejected _) fun _ => ?_
  case sw => exact .of_eq rfl rfl (encodeS_of_fields h3 hop)
  refine iteInduction (fun hop => iteInduction (fun h3 => ?bne) fun _ => rejected _) fun _ => ?_
  case bne => exact .of_eq (beq_iff_eq.mpr (offsetBOf_even w)) rfl (encodeB_of_fields h3 hop)
  refine iteInduction (fun hop => iteInduction (fun h3 => ?fence) fun _ =>
    iteInduction (fun h3 => ?fenceI) fun _ => rejected _) fun _ => ?_
  case fence => exact .of_eq rfl rfl (encodeI_of_fields (fence_fields w).symm rfl h3 rfl hop)
  case fenceI => exact .of_eq rfl rfl (encodeI_of_fields rfl rfl h3 rfl hop)
  refine iteInduction (fun _ => rejected _) fun _ => ?_
  exact iteInduction (fun _ => rejected _) fun _ => rejected _

/-- The decoder and the encoder on words are each other's inverse. -/
theorem decodeWord_eq_instr_iff {w : Word} {i : Instr} : decodeWord w = .instr i ↔ i.EncodesTo w :=
  ⟨fun h => (h ▸ decodeWord_fits w : (Decoded.instr i).Fits w), Instr.EncodesTo.decodeWord_eq⟩

/-- The words of the SYSTEM opcode that are no instruction are the reserved ones (R208). -/
theorem decodeWord_system_reject {w : Word} {e : DecodeError} (hop : opcodeOf w = 0b1110011#7)
    (h : decodeWord w = .reject e) : e = .reservedSystem :=
  (h ▸ decodeWord_fits w : (Decoded.reject e).Fits w) hop

/-- C.EBREAK is the one instruction a parcel decodes to. -/
theorem decodeParcel_eq_instr {p : Parcel} {i : Instr} (h : decodeParcel p = .instr i) : p = 0x9002#16 ∧ i = .cEbreak := by
  rcases ite_answer h with ⟨hp, h⟩ | ⟨-, h⟩
  · cases h; exact ⟨hp, rfl⟩
  rcases ite_answer h with ⟨-, h⟩ | ⟨-, h⟩
  · cases h
  rcases ite_answer h with ⟨-, h⟩ | ⟨-, h⟩ <;> cases h

/-- C.EBREAK is the one instruction encoded in 16 bits. -/
theorem encodeRaw_eq_parcel {i : Instr} {p : Parcel} (h : encodeRaw i = .parcel p) : i = .cEbreak ∧ p = 0x9002#16 := by
  cases i <;> cases h
  case cEbreak => exact ⟨rfl, rfl⟩

/-! ### The decoder on bytes -/

/-- Settles O1: the bytes of an instruction are those of its one parcel or of its word, and the decoder reads both back. -/
theorem decodeEncodeRoundTrip : Obligations.DecodeEncodeRoundTrip := by
  intro i rest hwf
  cases hw : encodeRaw i with
  | parcel p =>
    obtain ⟨rfl, rfl⟩ := encodeRaw_eq_parcel hw
    exact decode_parcel 0x9002#16 rest rfl
  | word w =>
    have henc : i.EncodesTo w := ⟨hwf, hw⟩
    rw [encode, hw, decode_word w rest henc.lowBits, henc.decodeWord_eq]
    rfl

theorem followedBy_eq_instr {d : Decoded} {rest rest' : List Byte} {i : Instr} (h : d.followedBy rest = .instr i rest') :
    d = .instr i ∧ rest = rest' := by
  cases d with
  | instr j => cases h; exact ⟨rfl, rfl⟩
  | reject e => cases h

/-- Settles O2: what decodes is the parcel of C.EBREAK or a word that its instruction encodes to. -/
theorem encodeDecodeRoundTrip : Obligations.EncodeDecodeRoundTrip := by
  intro bytes i rest h
  match bytes with
  | [] | [_] => cases h
  | b0 :: b1 :: tail =>
    rcases ite_answer h with ⟨-, h⟩ | ⟨-, h⟩
    · obtain ⟨hd, rfl⟩ := followedBy_eq_instr h
      obtain ⟨hp, rfl⟩ := decodeParcel_eq_instr hd
      have hbytes : parcelBytes 0x9002#16 = [b0, b1] := hp ▸ parcelBytes_of_bytes b1 b0
      exact ⟨rfl, congrArg (· ++ tail) hbytes.symm⟩
    · match tail with
      | [] | [_] => cases h
      | b2 :: b3 :: tail' =>
        obtain ⟨hd, rfl⟩ := followedBy_eq_instr h
        obtain ⟨hwf, hbits⟩ := decodeWord_eq_instr_iff.mp hd
        refine ⟨hwf, ?_⟩
        rw [encode, hbits, parcels_of_bytes]
        simp [parcelsBytes, parcelBytes_of_bytes]

/-! ### The rows of the opcode table (R206, R213) -/

/-- Under the mask of rows that a major opcode names. -/
theorem and_opcodeMask (w : Word) : w &&& 0x0000007F#32 = encodeU 0#20 0#5 (opcodeOf w) := by
  apply BitVec.eq_of_getLsbD_eq
  intro i hi
  unfold encodeU opcodeOf
  interval_cases i <;> (simp only [BitVec.getLsbD_append, BitVec.getLsbD_extractLsb', BitVec.getLsbD_and]; simp)

/-- Under the mask of rows that a major opcode and `funct3` name. -/
theorem and_funct3Mask (w : Word) : w &&& 0x0000707F#32 = encodeI 0#12 0#5 (funct3Of w) 0#5 (opcodeOf w) := by
  apply BitVec.eq_of_getLsbD_eq
  intro i hi
  unfold encodeI funct3Of opcodeOf
  interval_cases i <;> (simp only [BitVec.getLsbD_append, BitVec.getLsbD_extractLsb', BitVec.getLsbD_and]; simp)

/-- Under the mask of rows that `funct7` names too, `rd` being zero. -/
theorem and_funct7Mask (w : Word) :
    w &&& 0xFE007FFF#32 = encodeR (funct7Of w) 0#5 0#5 (funct3Of w) (rdOf w) (opcodeOf w) := by
  apply BitVec.eq_of_getLsbD_eq
  intro i hi
  unfold encodeR funct7Of funct3Of rdOf opcodeOf
  interval_cases i <;> (simp only [BitVec.getLsbD_append, BitVec.getLsbD_extractLsb', BitVec.getLsbD_and]; simp)

/-- Under the mask of rows of one word. -/
theorem and_fullMask (w : Word) : w &&& 0xFFFFFFFF#32 = w := BitVec.and_allOnes

/-- An encoded word matches the row of its instruction. -/
theorem Instr.EncodesTo.row {i : Instr} {w : Word} (h : i.EncodesTo w) : w &&& (tableRow i).2 = (tableRow i).1 := by
  obtain ⟨-, hw⟩ := h
  cases i with
  | cEbreak => cases hw
  | ecall | ebreak | mret | sret | wfi | mnret | dret | sfenceWInval | sfenceInvalIr | sctrclr => cases hw; rfl
  | sfenceVma | sinvalVma | hfenceVvma | hfenceGvma | hinvalVvma | hinvalGvma =>
    cases hw; simp only [tableRow, and_funct7Mask, funct7Of_encodeR, funct3Of_encodeR, rdOf_encodeR, opcodeOf_encodeR]; rfl
  | csrrw | csrrs | csrrc | csrrwi | csrrsi | csrrci | addi | lw | fence | fenceI =>
    cases hw; simp only [tableRow, and_funct3Mask, funct3Of_encodeI, opcodeOf_encodeI]; rfl
  | hlvHsv => cases hw; simp only [tableRow, and_funct3Mask, funct3Of_encodeR, opcodeOf_encodeR]; rfl
  | sw => cases hw; simp only [tableRow, and_funct3Mask, funct3Of_encodeS, opcodeOf_encodeS]; rfl
  | bne => cases hw; simp only [tableRow, and_funct3Mask, funct3Of_encodeB, opcodeOf_encodeB]; rfl
  | lui | auipc => cases hw; simp only [tableRow, and_opcodeMask, opcodeOf_encodeU]; rfl
  | jal => cases hw; simp only [tableRow, and_opcodeMask, opcodeOf_encodeJ]; rfl

theorem opcodeOf_of_row {w : Word} {op : BitVec 7} (h : w &&& 0x0000007F#32 = encodeU 0#20 0#5 op) : opcodeOf w = op := by
  simpa using congrArg opcodeOf ((and_opcodeMask w).symm.trans h)

theorem fields_of_funct3Row {w : Word} (f3 : BitVec 3) (op : BitVec 7)
    (h : w &&& 0x0000707F#32 = encodeI 0#12 0#5 f3 0#5 op) : funct3Of w = f3 ∧ opcodeOf w = op := by
  have h := (and_funct3Mask w).symm.trans h
  exact ⟨by simpa using congrArg funct3Of h, by simpa using congrArg opcodeOf h⟩

theorem encodeR_of_funct7Row {w : Word} {f7 : BitVec 7} {f3 : BitVec 3} {rd : Reg} {op : BitVec 7}
    (h : w &&& 0xFE007FFF#32 = encodeR f7 0#5 0#5 f3 rd op) : encodeR f7 (rs2Of w) (rs1Of w) f3 rd op = w := by
  have h := (and_funct7Mask w).symm.trans h
  exact encodeR_of_fields (by simpa using congrArg funct7Of h) (by simpa using congrArg funct3Of h)
    (by simpa using congrArg rdOf h) (by simpa using congrArg opcodeOf h)

/-- A word that matches a 32-bit row is the encoding of an instruction of that row: the one with the word's own fields. -/
theorem exists_encodesTo_of_row {w : Word} {j : Instr} (hj : j ≠ .cEbreak) (h : w &&& (tableRow j).2 = (tableRow j).1) :
    ∃ i : Instr, i.EncodesTo w ∧ tableRow i = tableRow j := by
  have funct3Row {f3 : BitVec 3} {op : BitVec 7} (h : w &&& 0x0000707F#32 = encodeI 0#12 0#5 f3 0#5 op) :
      encodeI (funct12Of w) (rs1Of w) f3 (rdOf w) op = w := by
    obtain ⟨h3, hop⟩ := fields_of_funct3Row f3 op h
    exact encodeI_of_fields rfl rfl h3 rfl hop
  have oneWord (hwf : j.wellFormed = true) (hbits : encodeRaw j = .word (tableRow j).1) (hmask : (tableRow j).2 = 0xFFFFFFFF#32) :
      ∃ i : Instr, i.EncodesTo w ∧ tableRow i = tableRow j :=
    ⟨j, .of_eq hwf hbits (by rw [← h, hmask, and_fullMask]), rfl⟩
  cases j with
  | cEbreak => exact absurd rfl hj
  | ecall | ebreak | mret | sret | wfi | mnret | dret | sfenceWInval | sfenceInvalIr | sctrclr => exact oneWord rfl rfl rfl
  | sfenceVma => exact ⟨.sfenceVma _ _, .of_eq rfl rfl (encodeR_of_funct7Row h), rfl⟩
  | sinvalVma => exact ⟨.sinvalVma _ _, .of_eq rfl rfl (encodeR_of_funct7Row h), rfl⟩
  | hfenceVvma => exact ⟨.hfenceVvma _ _, .of_eq rfl rfl (encodeR_of_funct7Row h), rfl⟩
  | hfenceGvma => exact ⟨.hfenceGvma _ _, .of_eq rfl rfl (encodeR_of_funct7Row h), rfl⟩
  | hinvalVvma => exact ⟨.hinvalVvma _ _, .of_eq rfl rfl (encodeR_of_funct7Row h), rfl⟩
  | hinvalGvma => exact ⟨.hinvalGvma _ _, .of_eq rfl rfl (encodeR_of_funct7Row h), rfl⟩
  | csrrw => exact ⟨.csrrw _ _ _, .of_eq rfl rfl (funct3Row h), rfl⟩
  | csrrs => exact ⟨.csrrs _ _ _, .of_eq rfl rfl (funct3Row h), rfl⟩
  | csrrc => exact ⟨.csrrc _ _ _, .of_eq rfl rfl (funct3Row h), rfl⟩
  | csrrwi => exact ⟨.csrrwi _ _ _, .of_eq rfl rfl (funct3Row h), rfl⟩
  | csrrsi => exact ⟨.csrrsi _ _ _, .of_eq rfl rfl (funct3Row h), rfl⟩
  | csrrci => exact ⟨.csrrci _ _ _, .of_eq rfl rfl (funct3Row h), rfl⟩
  | addi => exact ⟨.addi _ _ _, .of_eq rfl rfl (funct3Row h), rfl⟩
  | lw => exact ⟨.lw _ _ _, .of_eq rfl rfl (funct3Row h), rfl⟩
  | fenceI => exact ⟨.fenceI _ _ _, .of_eq rfl rfl (funct3Row h), rfl⟩
  | fence =>
    obtain ⟨h3, hop⟩ := fields_of_funct3Row 0b000#3 0b0001111#7 h
    exact ⟨.fence _ _ _ _ _, .of_eq rfl rfl (encodeI_of_fields (fence_fields w).symm rfl h3 rfl hop), rfl⟩
  | hlvHsv =>
    obtain ⟨h3, hop⟩ := fields_of_funct3Row 0b100#3 0b1110011#7 h
    exact ⟨.hlvHsv _ _ _ _, .of_eq rfl rfl (encodeR_of_fields rfl h3 rfl hop), rfl⟩
  | sw =>
    obtain ⟨h3, hop⟩ := fields_of_funct3Row 0b010#3 0b0100011#7 h
    exact ⟨.sw _ _ _, .of_eq rfl rfl (encodeS_of_fields h3 hop), rfl⟩
  | bne =>
    obtain ⟨h3, hop⟩ := fields_of_funct3Row 0b001#3 0b1100011#7 h
    exact ⟨.bne _ _ _, .of_eq (beq_iff_eq.mpr (offsetBOf_even w)) rfl (encodeB_of_fields h3 hop), rfl⟩
  | lui => exact ⟨.lui _ _, .of_eq rfl rfl (encodeU_of_fields (opcodeOf_of_row h)), rfl⟩
  | auipc => exact ⟨.auipc _ _, .of_eq rfl rfl (encodeU_of_fields (opcodeOf_of_row h)), rfl⟩
  | jal =>
    exact ⟨.jal _ _, .of_eq (beq_iff_eq.mpr (offsetJOf_even w)) rfl (encodeJ_of_fields (opcodeOf_of_row h)), rfl⟩

/-- Settles O4: the words that decode are the encodings, and the encodings are what the rows hold. -/
theorem decodeFollowsTheOpcodeTable : Obligations.DecodeFollowsTheOpcodeTable := by
  constructor
  · intro w i h
    have henc := decodeWord_eq_instr_iff.mp h
    exact ⟨henc.ne_cEbreak, henc.row⟩
  · intro w j hj h
    obtain ⟨i, henc, hrow⟩ := exists_encodesTo_of_row hj h
    exact ⟨i, henc.decodeWord_eq, hrow⟩

end Sys2Proof

namespace Sys2Proof.Machine

open Sys2Proof.Safety

/-! ### Bits that are no instruction of this hardware (R208, R210, R39, R204) -/

/-- What decoding answers is an illegal instruction: the exception of cause 2, and nothing else. -/
theorem illegal_of_runDecoded {s : State} {d : Decoded} (h : s.runDecoded d = .next (s.raise .illegalInstruction)) :
    ∃ t, s.runDecoded d = .next t ∧ TrapTaken s t 2#32 s.pc := ⟨_, h, trapTaken_raise s .illegalInstruction⟩

theorem decodeWord_reservedSystem {w : Word} (hop : opcodeOf w = 0b1110011#7)
    (hrow : ∀ j : Instr, j ≠ .cEbreak → w &&& (tableRow j).2 ≠ (tableRow j).1) :
    decodeWord w = .reject .reservedSystem := by
  cases h : decodeWord w with
  | instr i =>
    have henc := decodeWord_eq_instr_iff.mp h
    exact absurd henc.row (hrow i henc.ne_cEbreak)
  | reject e => rw [decodeWord_system_reject hop h]

theorem decodeWord_floatOrVector {w : Word}
    (hop : opcodeOf w ∈ [0b0000111#7, 0b0100111#7, 0b1000011#7, 0b1000111#7, 0b1001011#7, 0b1001111#7, 0b1010011#7,
      0b1010111#7, 0b1110111#7]) : decodeWord w = .reject .floatOrVector := by
  simp only [List.mem_cons, List.not_mem_nil, or_false] at hop
  rcases hop with h | h | h | h | h | h | h | h | h <;> simp [decodeWord, isFloatOrVectorOpcode, h]

theorem isFloatParcel_of_mem {p : Parcel}
    (hp : (p.extractLsb' 13 3, p.extractLsb' 0 2) ∈ [(0b001#3, 0b00#2), (0b011#3, 0b00#2), (0b101#3, 0b00#2),
      (0b111#3, 0b00#2), (0b001#3, 0b10#2), (0b011#3, 0b10#2), (0b111#3, 0b10#2)]) : isFloatParcel p = true := by
  simp only [List.mem_cons, List.not_mem_nil, or_false, Prod.mk.injEq] at hp
  rcases hp with ⟨h3, h0⟩ | ⟨h3, h0⟩ | ⟨h3, h0⟩ | ⟨h3, h0⟩ | ⟨h3, h0⟩ | ⟨h3, h0⟩ | ⟨h3, h0⟩ <;>
    simp [isFloatParcel, h3, h0]

/-- Neither C.EBREAK nor the parcel of zeros is of a floating-point form. -/
theorem decodeParcel_float {p : Parcel} (h : isFloatParcel p = true) : decodeParcel p = .reject .floatOrVector := by
  have h1 : p ≠ 0x9002#16 := by rintro rfl; cases h
  have h2 : p ≠ 0x0000#16 := by rintro rfl; cases h
  rw [decodeParcel, if_neg h1, if_neg h2, if_pos h]

/-- Where IALIGN = 32 it does not matter what a parcel decodes to (R204). -/
theorem runDecoded_parcel_ialign32 {s : State} (hc : s.cfg.extC = false) (p : Parcel) :
    s.runDecoded (decodeParcel p) = .next (s.raise .illegalInstruction) := by
  unfold decodeParcel
  split_ifs
  case pos => simp [State.runDecoded, registersExist, namedRegisters, exec, execCEbreak, hc]
  all_goals simp [State.runDecoded, hc]

/-- Settles O5: the decoder rejects each of these by a name that is an illegal instruction, and where IALIGN = 32 every answer
to a parcel is one. -/
theorem illegalEncodingsTrap : Obligations.IllegalEncodingsTrap := by
  refine ⟨fun w s hop hrow => ?_, fun s => illegal_of_runDecoded rfl, fun s => illegal_of_runDecoded rfl,
    fun w s hop => ?_, fun p s hp => ?_, fun p s hc => ?_⟩ <;> apply illegal_of_runDecoded
  · rw [decodeRaw, decodeWord_reservedSystem hop hrow]; rfl
  · rw [decodeRaw, decodeWord_floatOrVector hop]; rfl
  · rw [decodeRaw, decodeParcel_float (isFloatParcel_of_mem hp)]; rfl
  · exact runDecoded_parcel_ialign32 hc p

end Sys2Proof.Machine

/-! PROOFS. The CSR instructions (40_zicsr.md): the words the spec writes out, what each register reads after a write to it, what
a write leaves alone, and from these the whole effect of the forms that write, that only read, and that trap. -/

namespace Sys2Proof

/-- Settles O3: each 32-bit word is the encoding of the instruction beside it, and decoding inverts the encoding. -/
theorem specWordsDecode : Obligations.SpecWordsDecode := by
  have word {i : Instr} {w : Word} (hwf : i.wellFormed = true) (hbits : encodeRaw i = .word w) :
      decodeWord w = .instr i := Instr.EncodesTo.decodeWord_eq ⟨hwf, hbits⟩
  exact ⟨word rfl rfl, word rfl rfl, word rfl rfl, word rfl rfl, word rfl rfl, word rfl rfl, word rfl rfl, word rfl rfl, rfl,
    word rfl rfl, word rfl rfl, word rfl rfl, word rfl rfl, word rfl rfl⟩

end Sys2Proof

namespace Sys2Proof.Machine

open Sys2Proof.Safety

/-! ### What a register reads after a write to it (R232) -/

/-- A field of one bit takes that bit of the written value. -/
theorem bitAt_getLsbD (v : Word) (i : Nat) : bitAt i (v.getLsbD i) = v &&& BitVec.twoPow 32 i :=
  (BitVec.and_twoPow v i).symm

/-- Two fields of one bit each take what the mask of the two bits leaves of the written value. -/
theorem bitAt_or_bitAt (v : Word) (i j : Nat) :
    bitAt i (v.getLsbD i) ||| bitAt j (v.getLsbD j) = v &&& (BitVec.twoPow 32 i ||| BitVec.twoPow 32 j) := by
  rw [bitAt_getLsbD, bitAt_getLsbD, BitVec.and_or_distrib_left]

/-- The bits 31:2 of a word, put back in their place (R40). -/
theorem base_append_zero (v : Word) : v.extractLsb' 2 30 ++ 0#2 = v &&& 0xFFFFFFFC#32 := by
  apply BitVec.eq_of_getLsbD_eq
  intro i hi
  interval_cases i <;> (simp only [BitVec.getLsbD_append, BitVec.getLsbD_extractLsb', BitVec.getLsbD_and]; simp)

/-- Byte `k` of a `pmpcfg` register is the configuration of its entry `k` (R160). -/
theorem wordByte_pmpcfgWord (s : State) (n : Nat) (h : n < 2) {k : Nat} (hk : k < 4) :
    wordByte (s.pmpcfgWord n h) k = s.pmpcfg[4 * n + k] := by
  apply BitVec.eq_of_toNat_eq
  have h0 := s.pmpcfg[4 * n].isLt
  have h1 := s.pmpcfg[4 * n + 1].isLt
  have h2 := s.pmpcfg[4 * n + 2].isLt
  have h3 := s.pmpcfg[4 * n + 3].isLt
  simp only [wordByte, State.pmpcfgWord, BitVec.extractLsb'_toNat, toNat_cat, Nat.shiftRight_eq_div_pow]
  interval_cases k
  · simp only [Nat.add_zero]; omega
  all_goals omega

/-- An entry of the written register takes its own byte of the value (R170). -/
theorem writePmpcfg_own (s : State) (n : Nat) (h : n < 2) (v : Word) {k : Nat} (hk : k < 4) :
    (s.writePmpcfg n h v).pmpcfg[4 * n + k] = pmpCfgAfterWrite s.pmpcfg[4 * n + k] (wordByte v k) := by
  have hdiv : (4 * n + k) / 4 = n := by omega
  have hmod : (4 * n + k) % 4 = k := by omega
  have := writePmpcfg_getElem s n h v ⟨4 * n + k, by omega⟩
  rwa [hmod, if_pos hdiv] at this

theorem pmpcfgWord_writePmpcfg (s : State) (n : Nat) (h : n < 2) (v : Word) :
    (s.writePmpcfg n h v).pmpcfgWord n h =
      pmpCfgAfterWrite (wordByte (s.pmpcfgWord n h) 3) (wordByte v 3) ++
      pmpCfgAfterWrite (wordByte (s.pmpcfgWord n h) 2) (wordByte v 2) ++
      pmpCfgAfterWrite (wordByte (s.pmpcfgWord n h) 1) (wordByte v 1) ++
      pmpCfgAfterWrite (wordByte (s.pmpcfgWord n h) 0) (wordByte v 0) := by
  have own {k : Nat} (hk : k < 4) : (s.writePmpcfg n h v).pmpcfg[4 * n + k] =
      pmpCfgAfterWrite (wordByte (s.pmpcfgWord n h) k) (wordByte v k) := by
    rw [writePmpcfg_own s n h v hk, wordByte_pmpcfgWord s n h hk]
  rw [State.pmpcfgWord, own (k := 3) (by omega), own (k := 2) (by omega), own (k := 1) (by omega)]
  exact congrArg _ (own (k := 0) (by omega))

/-- Each register reads what its own rule makes of the written value; the shadows of the counters have no rule, because no
write reaches them (R66). -/
theorem csrRead_csrWrite_same {c : Csr} (hc : storageOf c = c) (s : State) (v : Word) :
    (s.csrWrite c v).csrRead c = readsAfterWrite s v c := by
  cases c with
  | mstatus => exact (BitVec.or_assoc ..).trans (congrArg _ (bitAt_or_bitAt v 7 3))
  | mie => exact bitAt_or_bitAt v 11 7
  | mtvec => exact base_append_zero v
  | pmpcfg n =>
    by_cases h : n < 2
    · simp only [csrWrite_pmpcfg_eq h, State.csrRead, readsAfterWrite, h, dif_pos, if_pos, pmpcfgWord_writePmpcfg]
    · simp only [State.csrRead, readsAfterWrite, h, dif_neg, if_neg, not_false_iff]
  | pmpaddr n =>
    by_cases h : n < 8
    · have hread := writePmpaddr_getElem s n h v ⟨n, h⟩
      simp only [csrWrite_pmpaddr_eq h, State.csrRead, readsAfterWrite, h, dif_pos]
      cases hl : s.pmpaddrLocked n h <;> simpa [hl, pmpaddrLegal] using hread
    · simp only [State.csrRead, readsAfterWrite, h, dif_neg, not_false_iff]
  | mcycle | minstret => exact lowHalf_withLowHalf _ v
  | mcycleh | minstreth => exact highHalf_withHighHalf _ v
  | cycle | instret | cycleh | instreth => cases hc
  | _ => rfl

/-! ### What a write leaves alone (R232) -/

/-- Of what the CSRs show, only the part that belongs to `c` may differ; `minstret`, which retirement changes too, is left
open. -/
structure OnlyCsrDiffers (c : Csr) (s t : State) : Prop where
  mstatus : c ≠ .mstatus → t.mstatusWord = s.mstatusWord
  mie : c ≠ .mie → t.mieWord = s.mieWord
  mtvec : c ≠ .mtvec → t.mtvecBase = s.mtvecBase
  mscratch : c ≠ .mscratch → t.mscratch = s.mscratch
  mepc : c ≠ .mepc → t.mepc = s.mepc
  mcause : c ≠ .mcause → t.mcause = s.mcause
  pmpcfg : ∀ (n : Nat) (h : n < 2), c ≠ .pmpcfg n → t.pmpcfgWord n h = s.pmpcfgWord n h
  pmpaddr : ∀ (n : Nat) (h : n < 8), c ≠ .pmpaddr n → t.pmpaddr[n] = s.pmpaddr[n]
  mcycle : c ≠ .mcycle → lowHalf t.mcycle = lowHalf s.mcycle
  mcycleh : c ≠ .mcycleh → highHalf t.mcycle = highHalf s.mcycle
  mip : t.mipWord = s.mipWord
  mtime : t.mtime = s.mtime
  cfg : t.cfg = s.cfg

theorem onlyCsrDiffers_refl (c : Csr) (s : State) : OnlyCsrDiffers c s s := by
  constructor <;> intros <;> rfl

theorem pmpcfgWord_writePmpcfg_other (s : State) {m n : Nat} (hm : m < 2) (hn : n < 2) (h : m ≠ n) (v : Word) :
    (s.writePmpcfg m hm v).pmpcfgWord n hn = s.pmpcfgWord n hn := by
  have other (k : Nat) (hk : k < 4) : (s.writePmpcfg m hm v).pmpcfg[4 * n + k] = s.pmpcfg[4 * n + k] := by
    have hdiv : (4 * n + k) / 4 ≠ m := by omega
    have := writePmpcfg_getElem s m hm v ⟨4 * n + k, by omega⟩
    rwa [if_neg hdiv] at this
  rw [State.pmpcfgWord, other 3 (by omega), other 2 (by omega), other 1 (by omega)]
  exact congrArg _ (other 0 (by omega))

theorem onlyCsrDiffers_csrWrite (c : Csr) (s : State) (v : Word) : OnlyCsrDiffers c s (s.csrWrite c v) := by
  cases c with
  | pmpcfg m =>
    by_cases hm : m < 2
    · rw [csrWrite_pmpcfg_eq hm]
      exact { onlyCsrDiffers_refl (.pmpcfg m) s with
        pmpcfg := fun n hn h => pmpcfgWord_writePmpcfg_other s hm hn (fun e => h (e ▸ rfl)) v }
    · simpa only [State.csrWrite, hm, dif_neg, not_false_iff] using onlyCsrDiffers_refl _ s
  | pmpaddr m =>
    by_cases hm : m < 8
    · rw [csrWrite_pmpaddr_eq hm, writePmpaddr_shape]
      exact { onlyCsrDiffers_refl (.pmpaddr m) s with
        pmpaddr := fun n hn h =>
          (writePmpaddr_getElem s m hm v ⟨n, hn⟩).trans (if_neg fun hw => h (congrArg Csr.pmpaddr hw.2)) }
    · simpa only [State.csrWrite, hm, dif_neg, not_false_iff] using onlyCsrDiffers_refl _ s
  | mcycle =>
    exact { onlyCsrDiffers_refl .mcycle s with
      mcycle := fun h => absurd rfl h, mcycleh := fun _ => highHalf_withLowHalf s.mcycle v }
  | mcycleh =>
    exact { onlyCsrDiffers_refl .mcycleh s with
      mcycle := fun _ => lowHalf_withHighHalf s.mcycle v, mcycleh := fun h => absurd rfl h }
  | mstatus => exact { onlyCsrDiffers_refl .mstatus s with mstatus := fun h => absurd rfl h }
  | mie => exact { onlyCsrDiffers_refl .mie s with mie := fun h => absurd rfl h }
  | mtvec => exact { onlyCsrDiffers_refl .mtvec s with mtvec := fun h => absurd rfl h }
  | mscratch => exact { onlyCsrDiffers_refl .mscratch s with mscratch := fun h => absurd rfl h }
  | mepc => exact { onlyCsrDiffers_refl .mepc s with mepc := fun h => absurd rfl h }
  | mcause => exact { onlyCsrDiffers_refl .mcause s with mcause := fun h => absurd rfl h }
  | _ => exact { onlyCsrDiffers_refl _ s with }

/-- Every register whose storage is another one, and that retirement does not change, reads as before. -/
theorem OnlyCsrDiffers.csrRead_eq {c c' : Csr} {s t : State} (h : OnlyCsrDiffers c s t) (hne : storageOf c' ≠ c)
    (hi : showsInstret c' = false) : t.csrRead c' = s.csrRead c' := by
  have hne : c ≠ storageOf c' := hne.symm
  cases c' with
  | mstatus => exact h.mstatus hne
  | mie => exact h.mie hne
  | mtvec => exact congrArg (· ++ 0#2) (h.mtvec hne)
  | mscratch => exact h.mscratch hne
  | mepc => exact h.mepc hne
  | mcause => exact h.mcause hne
  | pmpcfg n => exact dite_congr rfl (fun hn => h.pmpcfg n hn hne) (fun _ => rfl)
  | pmpaddr n => exact dite_congr rfl (fun hn => h.pmpaddr n hn hne) (fun _ => rfl)
  | mcycle | cycle => exact h.mcycle hne
  | mcycleh | cycleh => exact h.mcycleh hne
  | minstret | instret | minstreth | instreth => cases hi
  | misa => exact congrArg misaWord h.cfg
  | mip => exact h.mip
  | time => exact congrArg lowHalf h.mtime
  | timeh => exact congrArg highHalf h.mtime
  | _ => rfl

/-! ### A CSR instruction that writes (R235, R243) -/

@[simp] theorem csrRead_setX (s : State) (r : Reg) (v : Word) (c : Csr) : (s.setX r v).csrRead c = s.csrRead c := by
  unfold State.setX
  split <;> cases c <;> rfl

/-- Completion changes no register that a CSR instruction reads, but for the count of retired instructions. -/
theorem csrRead_csrRetire (s : State) (c : Csr) (writes : Bool) {c' : Csr} (h : showsInstret c' = false) :
    (s.csrRetire c writes).csrRead c' = s.csrRead c' := by
  cases c' with
  | minstret | instret | minstreth | instreth => cases h
  | _ => unfold State.csrRetire; split <;> rfl

theorem csrWrite_minstret {c : Csr} (h : c.isInstretHalf = false) (s : State) (v : Word) :
    (s.csrWrite c v).minstret = s.minstret := by
  cases c with
  | minstret | minstreth => cases h
  | pmpcfg n => simp only [State.csrWrite]; split <;> rfl
  | pmpaddr n =>
    simp only [State.csrWrite]
    split
    · rw [writePmpaddr_shape]
    · rfl
  | _ => rfl

/-- An explicit write to `minstret` or `minstreth` leaves the other half and is not counted; any other CSR instruction is
(R243, R348). -/
theorem minstret_csrCommit_csrRetire (s : State) (c : Csr) (v : Word) :
    ((s.csrCommit c true v).csrRetire c true).minstret =
      if c = .minstret then highHalf s.minstret ++ v
      else if c = .minstreth then v ++ lowHalf s.minstret
      else s.minstret + 1 := by
  cases hi : c.isInstretHalf with
  | true =>
    cases c with
    | minstret | minstreth => rfl
    | _ => cases hi
  | false =>
    have hlow : c ≠ .minstret := by rintro rfl; cases hi
    have hhigh : c ≠ .minstreth := by rintro rfl; cases hi
    rw [if_neg hlow, if_neg hhigh, ← csrWrite_minstret hi s v]
    simp [State.csrRetire, State.csrCommit, hi]

/-- Writing `rd` and completing do not interfere. -/
theorem csrRetire_setX (s : State) (r : Reg) (v : Word) (c : Csr) (writes : Bool) :
    (s.setX r v).csrRetire c writes = (s.csrRetire c writes).setX r v := by
  unfold State.setX State.csrRetire
  split <;> split <;> rfl

/-- What a CSR reads after the write half and the completion of an instruction. -/
theorem csrRead_csrCommit_csrRetire (s : State) (c : Csr) (v : Word) {c' : Csr} (h : showsInstret c' = false) :
    ((s.csrCommit c true v).csrRetire c true).csrRead c' = (s.csrWrite c v).csrRead c' :=
  (csrRead_csrRetire _ c true h).trans (by cases c' <;> rfl)

/-- What a write puts into a half of `mcycle` is still there after the platform's tick (D21). -/
theorem csrRead_tick_csrCommit_csrRetire (s : State) (rd : Reg) (x : Word) {c : Csr} (hc : c = .mcycle ∨ c = .mcycleh)
    (v : Word) :
    (((s.csrCommit c true v).csrRetire c true).setX rd x).tick.csrRead c = v := by
  rcases hc with rfl | rfl <;> simp only [State.csrRead, tick_mcycle, setX_cycleHeld, setX_mcycle]
  · exact lowHalf_withLowHalf s.mcycle v
  · exact highHalf_withHighHalf s.mcycle v

/-- The register written reads what its rule says. -/
theorem csrRead_csrCommit_csrRetire_same {c : Csr} (hc : storageOf c = c) (s : State) (v : Word) :
    ((s.csrCommit c true v).csrRetire c true).csrRead c = readsAfterWrite s v c := by
  rw [← csrRead_csrWrite_same hc]
  cases hi : showsInstret c with
  | false => exact csrRead_csrCommit_csrRetire s c v hi
  | true =>
    cases c with
    | minstret | minstreth => rfl
    | instret | instreth => cases hc
    | _ => cases hi

/-- The read-modify-write of a CSR that is not a shadow is the whole effect that the claims ask of a writing form. -/
theorem csrWritten_execCsr {c : Csr} (hc : storageOf c = c) (s : State) (rd : Reg) (v : Word) :
    CsrWritten s (((s.csrCommit c true v).setX rd (s.csrRead c)).csrRetire c true) rd c v := by
  rw [csrRetire_setX]
  exact
    { result := ⟨getX_setX_same _ rd _, fun r hr => by simp [getX_setX_other _ _ hr]⟩
      written := by rw [csrRead_setX, csrRead_csrCommit_csrRetire_same hc]
      cycleHeld := fun h => csrRead_tick_csrCommit_csrRetire s rd _ h v
      others := fun c' hne hi => by
        rw [csrRead_setX, csrRead_csrCommit_csrRetire s c v hi, (onlyCsrDiffers_csrWrite c s v).csrRead_eq hne hi]
      instret := by rw [setX_minstret, minstret_csrCommit_csrRetire]
      pc := by simp
      priv := by simp
      stalled := by simp
      memory := ⟨byteAt_of_mem (by simp), by simp⟩
      inputs := by constructor <;> simp
      timer := by constructor <;> simp
      irqDelay := by simp }

/-- Every form that writes, on a CSR that is present and not read-only by address, writes what it forms from the old value and
its operand; the addresses of the shadows are read-only. -/
theorem execCsr_writes {s : State} {a : CsrAddr} {c : Csr} (h : lookupCsr s.cfg a = .present c)
    (hro : csrReadOnly a = false) {writes : Bool} (hw : writes = true) (op : CsrOp) (rd : Reg) (src : Word) :
    ∃ t, s.execCsr op rd a writes src = .next t ∧ CsrWritten s t rd c (op.combine (s.csrRead c) src) := by
  subst hw
  have hlt : a.toNat < 0xC00 := by
    rw [← Bool.not_eq_true, csrReadOnly_iff] at hro
    omega
  have hc : storageOf c = c := storageOf_csrAt a c (lookupCsr_present h) hlt
  exact ⟨_, execCsr_present h (fun _ => hro) op rd src, csrWritten_execCsr hc s rd _⟩

/-- Settles O18: both forms always write, and what they form is the operand; `mcause` holds what the hardware can write to it. -/
theorem csrWriteForms : Obligations.CsrWriteForms := by
  refine ⟨fun s rd a c h hro => ⟨fun rs1 => execCsr_writes h hro rfl .write rd _,
    fun uimm => execCsr_writes h hro rfl .write rd _⟩, fun s rd rs1 hv => ?_⟩
  obtain ⟨t, hexec, ht⟩ := execCsr_writes (s := s) (a := 0x342#12) (c := .mcause) rfl rfl rfl .write rd (s.getX rs1)
  have hcause : HardwareCause (s.getX rs1) := by
    simp only [List.mem_cons, List.not_mem_nil, or_false] at hv
    unfold HardwareCause
    tauto
  exact ⟨t, hexec, ht.written.trans (if_pos (mcauseLegal_of_hardwareCause hcause))⟩

/-- Settles O19: such a form writes because its register is not `x0` or its immediate not 0 (R234). -/
theorem csrSetClearForms : Obligations.CsrSetClearForms := by
  intro s rd a c h hro
  have key {writes : Bool} (hw : writes = true) (op : CsrOp) (src : Word) := execCsr_writes h hro hw op rd src
  exact ⟨fun rs1 hne => ⟨key (bne_iff_ne.mpr hne) .set _, key (bne_iff_ne.mpr hne) .clear _⟩,
    fun uimm hne => ⟨key (bne_iff_ne.mpr hne) .set _, key (bne_iff_ne.mpr hne) .clear _⟩⟩

/-! ### What each register reads (R231) -/

theorem misaWord_eq (cfg : Config.Params) : misaWord cfg =
    0x40000000#32 ||| (if cfg.extB then 0x2#32 else 0#32) ||| (if cfg.extC then 0x4#32 else 0#32) |||
      (if cfg.baseE then 0x10#32 else 0x100#32) ||| (if cfg.extM then 0x1000#32 else 0#32) |||
      (if cfg.extX then 0x800000#32 else 0#32) := by
  unfold misaWord bitAt
  cases cfg.baseE <;> simp

/-- The addresses of `pmpaddr0` to `pmpaddr7` (R103). -/
theorem lookupCsr_pmpaddr (cfg : Config.Params) (n : Fin 8) :
    lookupCsr cfg (0x3B0#12 + BitVec.ofNat 12 n.val) = .present (.pmpaddr n.val) := by
  fin_cases n <;> rfl

theorem csrRead_pmpaddr (s : State) (n : Fin 8) : s.csrRead (.pmpaddr n.val) = s.pmpaddr[n] := dif_pos n.isLt

theorem csrRead_zihpmShadow {c : Csr} (h : c.zihpmShadow = true) (s : State) : s.csrRead c = 0#32 := by
  cases c with
  | hpmcounter | hpmcounterh => rfl
  | _ => cases h

/-- A shadow of Zicntr is read where the parameter says that it exists. -/
theorem readsAs_zicntrShadow {s : State} {a : CsrAddr} {c : Csr} (hat : csrAt a = some c) (hc : c.zicntrShadow = true)
    (h : s.cfg.hasZicntr = true) : ReadsAs s a (s.csrRead c) :=
  readsAs_csrRead ((lookupCsr_zicntrShadow hat hc s.cfg).trans (if_pos h))

/-- Settles O20: a form that does not write reads the register at the address, and its value is the one written out. -/
theorem csrReadForms : Obligations.CsrReadForms := by
  refine ⟨fun s a c h => readsAs_csrRead h, fun s => ?_⟩
  have misa : ReadsAs s 0x301#12 (misaWord s.cfg) := readsAs_csrRead (c := .misa) rfl
  have pmpaddr (n : Fin 8) : ReadsAs s (0x3B0#12 + BitVec.ofNat 12 n.val) s.pmpaddr[n] :=
    csrRead_pmpaddr s n ▸ readsAs_csrRead (lookupCsr_pmpaddr s.cfg n)
  refine ⟨readsAs_csrRead (c := .mstatus) rfl, misaWord_eq s.cfg ▸ misa, readsAs_csrRead (c := .mie) rfl,
    readsAs_csrRead (c := .mtvec) rfl, readsAs_csrRead (c := .mstatush) rfl, readsAs_csrRead (c := .mscratch) rfl,
    readsAs_csrRead (c := .mepc) rfl, readsAs_csrRead (c := .mcause) rfl, readsAs_csrRead (c := .mip) rfl,
    readsAs_csrRead (c := .pmpcfg 0) rfl, readsAs_csrRead (c := .pmpcfg 1) rfl, pmpaddr,
    readsAs_csrRead (c := .mcycle) rfl, readsAs_csrRead (c := .mcycleh) rfl,
    readsAs_csrRead (c := .minstret) rfl, readsAs_csrRead (c := .minstreth) rfl, fun hz => ?_, fun hz a ha => ?_⟩
  · have shadow {a : CsrAddr} {c : Csr} (hat : csrAt a = some c) (hc : c.zicntrShadow = true) :=
      readsAs_zicntrShadow hat hc hz
    exact ⟨shadow (c := .cycle) rfl rfl, shadow (c := .cycleh) rfl rfl, shadow (c := .time) rfl rfl,
      shadow (c := .timeh) rfl rfl, shadow (c := .instret) rfl rfl, shadow (c := .instreth) rfl rfl⟩
  · obtain ⟨c, hat, hc⟩ := csrAt_zihpmAddress ha
    exact csrRead_zihpmShadow hc s ▸ readsAs_csrRead ((lookupCsr_zihpmShadow hat hc s.cfg).trans (if_pos hz))

/-! ### Illegal accesses (R233, R234) -/

/-- An access to an absent CSR is illegal, and so is a write to one that is read-only by address. -/
theorem execCsr_illegal {s : State} {a : CsrAddr} {writes : Bool}
    (h : lookupCsr s.cfg a = .absent ∨ (∃ c, lookupCsr s.cfg a = .present c) ∧ writes = true ∧ csrReadOnly a = true)
    (op : CsrOp) (rd : Reg) (src : Word) :
    s.execCsr op rd a writes src = .next (s.raise .illegalInstruction) := by
  unfold State.execCsr
  rcases h with h | ⟨⟨c, h⟩, hw, hro⟩
  · rw [h]
  · simp [h, hw, hro]

/-- Settles O21: each form comes to the one access check, which raises the exception before anything is read or written. -/
theorem illegalCsrAccessTraps : Obligations.IllegalCsrAccessTraps := by
  refine ⟨fun s rd a habsent => ?_, fun s a c hpresent ha rd => ?_⟩
  · have key {i : Instr} {op : CsrOp} {writes : Bool} {src : Word} (hi : exec i s = s.execCsr op rd a writes src) :
        Raises i s 2#32 := raises_of_exec (hi.trans (execCsr_illegal (.inl habsent) op rd src))
    exact ⟨fun x => ⟨key rfl, key rfl, key rfl⟩, fun u => ⟨key rfl, key rfl, key rfl⟩⟩
  · have key {i : Instr} {op : CsrOp} {writes : Bool} {src : Word} (hw : writes = true)
        (hi : exec i s = s.execCsr op rd a writes src) : Raises i s 2#32 :=
      raises_of_exec (hi.trans
        (execCsr_illegal (.inr ⟨⟨c, hpresent⟩, hw, (csrReadOnly_iff a).mpr ha⟩) op rd src))
    exact ⟨fun x => ⟨key rfl rfl, fun hx => ⟨key (bne_iff_ne.mpr hx) rfl, key (bne_iff_ne.mpr hx) rfl⟩⟩,
      fun u => ⟨key rfl rfl, fun hu => ⟨key (bne_iff_ne.mpr hu) rfl, key (bne_iff_ne.mpr hu) rfl⟩⟩⟩

end Sys2Proof.Machine

/-! PROOFS. The privileged instructions (41_privileged.md): the ones that trap, MRET and the interrupt test after it, WFI and the
boundaries of a stalled hart. -/

namespace Sys2Proof.Machine

open Sys2Proof.Safety

/-! ### The instructions that trap (R251, R252, R254, R257) -/

/-- Settles O27: the word is the encoding of ECALL, whose meaning is the exception. -/
theorem ecallTraps : Obligations.EcallTraps :=
  ⟨Instr.EncodesTo.decodeWord_eq ⟨rfl, rfl⟩, fun _ => raises_of_exec (e := .environmentCallFromM) rfl⟩

/-- C.EBREAK raises what IALIGN makes of it (R204). -/
theorem exec_cEbreak (s : State) :
    exec .cEbreak s = .next (s.raise (if s.cfg.extC then .breakpoint else .illegalInstruction)) := rfl

/-- Settles O28: EBREAK is the exception itself, and C.EBREAK one of two by whether the C extension is present. -/
theorem ebreakTraps : Obligations.EbreakTraps := by
  refine fun s => ⟨raises_of_exec (e := .breakpoint) rfl, fun hc => ?_, fun hc => ?_⟩
  · exact raises_of_exec (e := .breakpoint) (by simp [exec_cEbreak, hc])
  · exact raises_of_exec (e := .illegalInstruction) (by simp [exec_cEbreak, hc])

theorem raises_illegal {i : Instr} {s : State} (h : exec i s = .next (s.raise .illegalInstruction)) : Raises i s 2#32 :=
  raises_of_exec h

/-- Settles O29: the word is the encoding of SRET, which is an illegal instruction. -/
theorem sretTraps : Obligations.SretTraps :=
  ⟨Instr.EncodesTo.decodeWord_eq ⟨rfl, rfl⟩, fun _ => raises_illegal rfl⟩

/-- Settles O30: each of these is an illegal instruction, whatever its operands. -/
theorem absentInstructionsTrap : Obligations.AbsentInstructionsTrap := fun _ _ _ _ _ =>
  ⟨raises_illegal rfl, raises_illegal rfl, raises_illegal rfl, raises_illegal rfl, raises_illegal rfl, raises_illegal rfl,
    raises_illegal rfl, raises_illegal rfl, raises_illegal rfl, raises_illegal rfl, raises_illegal rfl, raises_illegal rfl⟩

/-! ### What the control operations leave alone -/

/-- What trap entry, trap return and both outcomes of a WFI leave alone. -/
def ContextKept (s t : State) : Prop :=
  SameRegs s t ∧ SameMemory s t ∧ SameCsrs s t ∧ SameInputs s t ∧ SameTimer s t

/-- It is enough that the registers of the trap, `pc`, the mode, the stall, the count of retired instructions and the deferral
are all that differs. -/
theorem contextKept_of_shape {s t : State}
    (h : t = { s with
      pc := t.pc
      priv := t.priv
      mstatusMie := t.mstatusMie
      mstatusMpie := t.mstatusMpie
      mepc := t.mepc
      mcause := t.mcause
      minstret := t.minstret
      wfiStalled := t.wfiStalled
      irqDelay := t.irqDelay
      irqNow := t.irqNow }) : ContextKept s t := by
  rw [h]
  exact ⟨getX_of_gpr rfl, ⟨byteAt_of_mem rfl, rfl⟩, by constructor <;> rfl, by constructor <;> rfl, by constructor <;> rfl⟩

theorem contextKept_trapReturn (s : State) : ContextKept s s.trapReturn := contextKept_of_shape rfl

theorem contextKept_wfiComplete (s : State) : ContextKept s s.wfiComplete := contextKept_of_shape rfl

theorem contextKept_stall (s : State) : ContextKept s { s with wfiStalled := true } := contextKept_of_shape rfl

theorem contextKept_interruptEntry_wfiComplete (s : State) (i : Interrupt) :
    ContextKept s (s.wfiComplete.interruptEntry i) := contextKept_of_shape rfl

theorem retiredTo_wfiComplete (s : State) : RetiredTo s s.wfiComplete (s.pc + 4#32) := ⟨rfl, rfl⟩

/-! ### Which interrupt is due (R312, R320, R324) -/

/-- Of the interrupts that can be due the external one goes first (R312). -/
def State.firstInterrupt (s : State) : Interrupt :=
  if s.mieMeie && s.extIrq then .machineExternal else .machineTimer

/-- What a maskable interrupt writes to `mcause`: the code, below a set interrupt bit (R303). -/
def Interrupt.cause (i : Interrupt) : Word := BitVec.ofBool true ++ i.code

theorem cause_firstInterrupt (s : State) :
    s.firstInterrupt.cause = if s.mieMeie && s.extIrq then 0x8000000B#32 else 0x80000007#32 :=
  apply_ite Interrupt.cause _ _ _

theorem interruptDue_of_takeable {s : State} (ht : s.takeable = true) (hd : s.irqDelay = 0) :
    s.interruptDue = some s.firstInterrupt := by
  simp [State.interruptDue, State.firstInterrupt, ht, hd, apply_ite some]

theorem interruptDue_of_not_takeable {s : State} (ht : s.takeable = false) : s.interruptDue = none := by
  simp [State.interruptDue, ht]

/-- A takeable interrupt is due at the boundary after the immediate test was asked for (R324). -/
theorem interruptDue_tick_of_irqNow {s : State} (hnow : s.irqNow = true) (ht : s.tick.takeable = true) :
    s.tick.interruptDue = some s.tick.firstInterrupt :=
  interruptDue_of_takeable ht (by simp [nextIrqDelay, hnow])

theorem trapTaken_interruptEntry (s : State) (i : Interrupt) : TrapTaken s (s.interruptEntry i) i.cause s.pc :=
  trapTaken_trapEntry s true i.code s.pc

/-! ### MRET (R253) -/

/-- `mstatus.MPP` reads M in every state (R36). -/
theorem mpp_csrRead_mstatus (s : State) : (s.csrRead .mstatus).extractLsb' 11 2 = 0b11#2 := by
  simp only [State.csrRead, State.mstatusWord]
  cases s.mstatusMpie <;> cases s.mstatusMie <;> rfl

/-- Settles O31: MRET is the return operation, which asks for the immediate interrupt test. -/
theorem mretReturns : Obligations.MretReturns := by
  refine ⟨Instr.EncodesTo.decodeWord_eq ⟨rfl, rfl⟩, fun s => ⟨s.trapReturn, rfl, rfl, rfl, ⟨rfl, rfl⟩, rfl, rfl, rfl, rfl,
    mpp_csrRead_mstatus _, fun ht => ?_, contextKept_trapReturn s⟩⟩
  simp [interruptDue_tick_of_irqNow (trapReturn_irqNow s) ht]

/-! ### WFI (R255) -/

theorem exec_wfi_stall {s : State} (h : s.drawNow.wfiStall = true) :
    exec .wfi s = .next { s with wfiStalled := true } := by
  simp only [exec, execWfi, h, if_true]

theorem exec_wfi_complete {s : State} (h : s.drawNow.wfiStall = false) : exec .wfi s = .next s.wfiComplete := by
  simp [exec, execWfi, h]

/-- Settles O33: the draw decides between the stall and completion, and neither touches more than `pc`, the stall, the count of
retired instructions and the next interrupt test. -/
theorem wfiCompletesOrStalls : Obligations.WfiCompletesOrStalls := by
  intro s _
  cases hd : s.drawNow.wfiStall with
  | true =>
    obtain ⟨hregs, hmem, hcsrs, hinputs, htimer⟩ := contextKept_stall s
    exact ⟨_, exec_wfi_stall hd, hregs, hmem, hcsrs, hinputs, htimer, rfl, rfl, rfl, rfl, rfl,
      nofun, fun _ => ⟨rfl, rfl, rfl⟩⟩
  | false =>
    obtain ⟨hregs, hmem, hcsrs, hinputs, htimer⟩ := contextKept_wfiComplete s
    exact ⟨_, exec_wfi_complete hd, hregs, hmem, hcsrs, hinputs, htimer, rfl, rfl, rfl, rfl, rfl,
      fun _ => ⟨retiredTo_wfiComplete s, rfl⟩, nofun⟩

/-! ### The boundary of a stalled hart (R255, R331) -/

theorem step_stalled {s : State} (hs : s.wfiStalled = true) : step s = .next s.stalledBoundary.tick := by
  simp [step, State.runBoundary, hs]

/-- Completing a WFI changes nothing an interrupt depends on but its deferral, which ends. -/
theorem interruptDue_wfiComplete (s : State) :
    s.wfiComplete.interruptDue = if s.takeable then some s.firstInterrupt else none := by
  have hsame : s.wfiComplete.takeable = s.takeable := rfl
  cases ht : s.takeable with
  | true => exact interruptDue_of_takeable (hsame.trans ht) rfl
  | false => exact interruptDue_of_not_takeable (hsame.trans ht)

theorem takeEvent_of_no_nmi {s : State} (hn : s.nmiDue = none) : s.takeEvent = s.interruptDue.map s.interruptEntry := by
  simp [State.takeEvent, hn]

/-- A stalled hart that wakes without an NMI takes the interrupt that is takeable just past the WFI, or goes on from there. -/
theorem stalledBoundary_wakes {s : State} (hn : s.nmiDue = none) (hw : s.wakes = true) :
    s.stalledBoundary = if s.takeable then s.wfiComplete.interruptEntry s.firstInterrupt else s.wfiComplete := by
  rw [State.stalledBoundary, if_pos hw, takeEvent_of_no_nmi (s := s.wfiComplete) hn, interruptDue_wfiComplete]
  split <;> rfl

theorem wakes_of_no_nmi {s : State} (hn : s.nmiDue = none) : s.wakes = (s.pendingEnabled || s.drawNow.wfiWake) := by
  simp [State.wakes, hn]

theorem step_stalled_interrupt {s : State} (hs : s.wfiStalled = true) (hn : s.nmiDue = none) (hw : s.wakes = true)
    (ht : s.takeable = true) : step s = .next (s.wfiComplete.interruptEntry s.firstInterrupt).tick := by
  rw [step_stalled hs, stalledBoundary_wakes hn hw, if_pos ht]

theorem step_stalled_resume {s : State} (hs : s.wfiStalled = true) (hn : s.nmiDue = none) (hw : s.wakes = true)
    (ht : s.takeable = false) : step s = .next s.wfiComplete.tick := by
  rw [step_stalled hs, stalledBoundary_wakes hn hw, if_neg (by simp [ht])]

theorem step_stalled_asleep {s : State} (hs : s.wfiStalled = true) (hw : s.wakes = false) : step s = .next s.tick := by
  rw [step_stalled hs, State.stalledBoundary, if_neg (by simp [hw])]

/-- Settles O17: what is pending, MIE and the draw decide whether the WFI completes and whether the interrupt follows it. -/
theorem stalledHartResumes : Obligations.StalledHartResumes := by
  intro s hs hn
  refine ⟨fun hp hmie => ?_, fun h => ?_, fun hp hd => ?_⟩
  · have hw : s.wakes = true := by simp [wakes_of_no_nmi hn, hp]
    have ht : s.takeable = true := by simp [State.takeable, hp, hmie]
    have htrap := trapTaken_interruptEntry s.wfiComplete s.firstInterrupt
    exact ⟨_, step_stalled_interrupt hs hn hw ht, htrap.mepc, htrap.mcause.trans (cause_firstInterrupt s), htrap.pc,
      htrap.mpie.trans hmie, htrap.mie, htrap.priv, htrap.stalled, htrap.minstret,
      contextKept_interruptEntry_wfiComplete s _⟩
  · have hw : s.wakes = true := by
      rw [wakes_of_no_nmi hn]
      rcases h with ⟨hp, _⟩ | ⟨_, hd⟩
      · simp [hp]
      · simp [hd]
    have ht : s.takeable = false := by
      rcases h with ⟨_, hmie⟩ | ⟨hp, _⟩
      · simp [State.takeable, hmie]
      · simp [State.takeable, hp]
    exact ⟨s.wfiComplete, step_stalled_resume hs hn hw ht, retiredTo_wfiComplete s, rfl, rfl, rfl, rfl, rfl, rfl,
      contextKept_wfiComplete s⟩
  · exact step_stalled_asleep hs (by simp [wakes_of_no_nmi hn, hp, hd])

end Sys2Proof.Machine

/-! PROOFS. The base instructions (42_base_subset.md): what only CSR instructions write, the word accesses of LW and SW to main
memory and to the timer registers, the step that runs the decoded instruction, and the results of LUI, AUIPC, ADDI, JAL and BNE. -/

namespace Sys2Proof.Machine

open Sys2Proof.Safety

/-! ### What only CSR instructions write (R23, R330, R335) -/

theorem EventPoint.sameCsrs {s b : State} (hb : EventPoint s b) : SameCsrs s b := by
  cases hb <;> constructor <;> rfl

/-- An instruction other than a CSR instruction leaves alone every CSR that no trap writes. -/
theorem ExecShape.sameCsrs {i : Instr} {s u : State} (h : ExecShape i s u) : isCsrInstr i = true ∨ SameCsrs s u := by
  cases h with
  | csr hi => exact .inl hi
  | _ => subst u; exact .inr (by constructor <;> simp)

theorem StepEffect.sameCsrs {s u : State} (h : StepEffect s u) :
    (∃ i, RunsAt s i ∧ isCsrInstr i = true) ∨ SameCsrs s u := by
  cases h with
  | idle h | wake h | raise _ h => subst h; exact .inr (by constructor <;> rfl)
  | nmi _ hb _ _ h | interrupt _ hb _ h => subst h; exact .inr { hb.sameCsrs with }
  | instr i hr h => exact h.sameCsrs.imp_left fun hi => ⟨i, hr, hi⟩

/-- Settles O55: every effect of a step but that of a CSR instruction leaves these registers alone, and so does the tick. -/
theorem onlyCsrInstructionsWriteControlState : Obligations.OnlyCsrInstructionsWriteControlState := by
  intro s t h hne
  obtain ⟨u, rfl, hu⟩ := step_effect h
  rcases hu.sameCsrs with hcsr | hsame
  · exact hcsr
  · exact absurd hne (by simp [hsame.mtvec, hsame.meie, hsame.mtie, hsame.mscratch, hsame.pmpcfg, hsame.pmpaddr])

/-! ### The timer words (R340, R342) -/

/-- Where each timer word lies. -/
def TimerWord.address (cfg : Config.Params) : TimerWord → Word
  | .mtimeLow => cfg.mtimeAddr
  | .mtimeHigh => cfg.mtimeAddr + 4#32
  | .mtimecmpLow => cfg.mtimecmpAddr
  | .mtimecmpHigh => cfg.mtimecmpAddr + 4#32

/-- The half of a timer register that is the timer word. -/
def State.timerValue (s : State) : TimerWord → Word
  | .mtimeLow => lowHalf s.mtime
  | .mtimeHigh => highHalf s.mtime
  | .mtimecmpLow => lowHalf s.mtimecmp
  | .mtimecmpHigh => highHalf s.mtimecmp

/-- The timer registers are 8-byte aligned and disjoint (D11), so each of the four addresses finds its own word. -/
theorem timerWordAt_address {cfg : Config.Params} (hp : ParamsOk cfg) (w : TimerWord) :
    timerWordAt cfg (w.address cfg) = some w := by
  have hmtime := hp.mtimeAligned
  have hmtimecmp := hp.mtimecmpAligned
  have hself (a : Word) : a + 4#32 ≠ a := by bv_omega
  have hne : cfg.mtimecmpAddr ≠ cfg.mtimeAddr := hp.timersDisjoint.symm
  have hlowHigh : cfg.mtimecmpAddr ≠ cfg.mtimeAddr + 4#32 := by bv_omega
  have hhighLow : cfg.mtimecmpAddr + 4#32 ≠ cfg.mtimeAddr := by bv_omega
  cases w <;> simp [timerWordAt, TimerWord.address, *]

theorem TimerWord.address_inj {cfg : Config.Params} (hp : ParamsOk cfg) {w w' : TimerWord} :
    w.address cfg = w'.address cfg ↔ w = w' := by
  refine ⟨fun h => ?_, congrArg _⟩
  have hfound := timerWordAt_address hp w
  rw [h, timerWordAt_address hp w'] at hfound
  exact (Option.some.inj hfound).symm

theorem TimerWord.address_aligned {cfg : Config.Params} (hp : ParamsOk cfg) (w : TimerWord) :
    (w.address cfg).toNat % 4 = 0 := by
  have hmtime := hp.mtimeAligned
  have hmtimecmp := hp.mtimecmpAligned
  cases w <;> simp only [TimerWord.address] <;> bv_omega

theorem readWord_address {s : State} (hp : ParamsOk s.cfg) (w : TimerWord) :
    s.readWord (w.address s.cfg) = s.timerValue w := by
  rw [State.readWord, timerWordAt_address hp]
  cases w <;> rfl

theorem mtime_writeWord_address {s : State} (hp : ParamsOk s.cfg) (w : TimerWord) (v : Word) :
    (s.writeWord (w.address s.cfg) v).mtime =
      if w = .mtimeLow then withLowHalf s.mtime v
      else if w = .mtimeHigh then withHighHalf s.mtime v else s.mtime := by
  rw [State.writeWord, timerWordAt_address hp]
  cases w <;> rfl

theorem mtimecmp_writeWord_address {s : State} (hp : ParamsOk s.cfg) (w : TimerWord) (v : Word) :
    (s.writeWord (w.address s.cfg) v).mtimecmp =
      if w = .mtimecmpLow then withLowHalf s.mtimecmp v
      else if w = .mtimecmpHigh then withHighHalf s.mtimecmp v else s.mtimecmp := by
  rw [State.writeWord, timerWordAt_address hp]
  cases w <;> rfl

theorem sameMemory_writeWord_address {s : State} (hp : ParamsOk s.cfg) (w : TimerWord) (v : Word) :
    SameMemory s (s.writeWord (w.address s.cfg) v) := by
  rcases writeWord_cases s (w.address s.cfg) v with ⟨hnone, _⟩ | ⟨_, hmem, hstored⟩
  · rw [timerWordAt_address hp] at hnone; cases hnone
  · exact ⟨byteAt_of_mem hmem, hstored⟩

/-! ### LW (R277) -/

theorem readWord_memory {s : State} {a : Word} (h : timerWordAt s.cfg a = none) : s.readWord a = s.ramWord a := by
  rw [State.readWord, h]

/-- A load that passes its checks, told by its address. -/
theorem exec_lw_at {s : State} {rd rs1 : Reg} {imm12 : BitVec 12} {a : Word} (ha : a = s.effectiveAddress rs1 imm12)
    (h : s.checkAccess a 4 .read = .allowed) :
    ∃ t, exec (.lw rd rs1 imm12) s = .next t ∧ Computes s t rd (s.readWord a) := by
  subst ha; exact exec_lw_allowed h

/-- Settles O38: an allowed load away from the timer registers reads the word of main memory. -/
theorem lwLoadsFromMemory : Obligations.LwLoadsFromMemory := by
  intro s rd rs1 imm12 a ha hal hpmp hpma htimer
  have hload := exec_lw_at (rd := rd) ha (checkAccess_allowed hpmp hpma hal)
  rwa [readWord_memory htimer] at hload

/-- Settles O39: each of the four addresses is that of one timer word, which is what the load reads. -/
theorem lwReadsTheTimer : Obligations.LwReadsTheTimer := by
  intro s rd rs1 imm12 a ha hp hpmp hpma
  have key (w : TimerWord) (hw : a = w.address s.cfg) :
      ∃ t, exec (.lw rd rs1 imm12) s = .next t ∧ Computes s t rd (s.timerValue w) := by
    have hal : a.toNat % 4 = 0 := hw ▸ w.address_aligned hp
    rw [← readWord_address hp w, ← hw]
    exact exec_lw_at ha (checkAccess_allowed hpmp hpma hal)
  exact ⟨key .mtimeLow, key .mtimeHigh, key .mtimecmpLow, key .mtimecmpHigh⟩

/-! ### SW (R278) -/

/-- A store that passes its checks, told by its address. -/
theorem exec_sw_at {s : State} {rs2 rs1 : Reg} {imm12 : BitVec 12} {a : Word} (ha : a = s.effectiveAddress rs1 imm12)
    (h : s.checkAccess a 4 .write = .allowed) :
    exec (.sw rs2 rs1 imm12) s = .next (s.writeWord a (s.getX rs2)).retire := by
  subst ha; simp [exec, execSw, h]

theorem writeWord_memory {s : State} {a : Word} (h : timerWordAt s.cfg a = none) (v : Word) :
    s.writeWord a v = s.storeRamWord a v := by
  rw [State.writeWord, h]

/-- What a store does wherever it goes: it retires, and leaves alone all but memory and the timer registers. -/
structure StoreFrame (s t : State) : Prop where
  regs : SameRegs s t
  csrs : SameCsrs s t
  trapState : SameTrapState s t
  inputs : SameInputs s t
  deferral : SameDeferral s t
  retired : RetiredTo s t (s.pc + 4#32)

theorem storeFrame_writeWord_retire (s : State) (a v : Word) : StoreFrame s (s.writeWord a v).retire where
  regs := by simp [SameRegs]
  csrs := by constructor <;> simp
  trapState := by constructor <;> simp
  inputs := by constructor <;> simp
  deferral := by constructor <;> simp
  retired := by constructor <;> simp

/-- An aligned word does not wrap, so the addresses of its four bytes are consecutive numbers. -/
theorem exists_byteAddress_iff {a : Word} (hal : a.toNat % 4 = 0) (b : Nat) :
    (∃ k, k < 4 ∧ b = (byteAddress a k).toNat) ↔ a.toNat ≤ b ∧ b < a.toNat + 4 := by
  have hlt := a.isLt
  have hbyte (k : Nat) (hk : k < 4) : (byteAddress a k).toNat = a.toNat + k := by
    simp only [byteAddress, BitVec.toNat_add, BitVec.toNat_ofNat]
    omega
  constructor
  · rintro ⟨k, hk, rfl⟩
    rw [hbyte k hk]
    omega
  · rintro ⟨hlow, hhigh⟩
    exact ⟨b - a.toNat, by omega, by rw [hbyte _ (by omega)]; omega⟩

/-- Settles O41: an allowed store away from the timer registers is the store to main memory, which marks its four bytes. -/
theorem swStoresToMemory : Obligations.SwStoresToMemory := by
  intro s rs2 rs1 imm12 a ha hal hpmp hpma htimer
  have hexec := exec_sw_at (rs2 := rs2) ha (checkAccess_allowed hpmp hpma hal)
  have hframe := storeFrame_writeWord_retire s a (s.getX rs2)
  have hstore := writeWord_memory htimer (s.getX rs2)
  rw [hstore] at hexec hframe
  have hbyte (k : Nat) (hk : k < 4) := byteAt_storeRamWord_same s a (s.getX rs2) hk
  have hbyte0 : (s.storeRamWord a (s.getX rs2)).byteAt a = wordByte (s.getX rs2) 0 := by
    simpa only [byteAddress_zero, wordByte] using hbyte 0 (by omega)
  refine ⟨_, hexec, hbyte0, hbyte 1 (by omega), hbyte 2 (by omega), hbyte 3 (by omega), ?_, ?_,
    hframe.regs, hframe.csrs, hframe.trapState, hframe.inputs, ⟨rfl, rfl⟩, hframe.deferral, hframe.retired⟩
  · intro b h0 h1 h2 h3
    refine byteAt_storeRamWord_other s a _ fun k hk => ?_
    match k, hk with
    | 0, _ => rwa [byteAddress_zero]
    | 1, _ => exact h1
    | 2, _ => exact h2
    | 3, _ => exact h3
  · intro k
    rw [← exists_byteAddress_iff hal]
    exact mem_markWord

/-- Settles O42: the store reaches one timer word, and the four addresses are four different words. -/
theorem swWritesTheTimer : Obligations.SwWritesTheTimer := by
  intro s rs2 rs1 imm12 a ha hp hpmp hpma htimer
  obtain ⟨w, rfl⟩ : ∃ w : TimerWord, a = w.address s.cfg := by
    rcases htimer with h | h | h | h
    · exact ⟨.mtimeLow, h⟩
    · exact ⟨.mtimeHigh, h⟩
    · exact ⟨.mtimecmpLow, h⟩
    · exact ⟨.mtimecmpHigh, h⟩
  have hexec := exec_sw_at (rs2 := rs2) ha (checkAccess_allowed hpmp hpma (w.address_aligned hp))
  have hframe := storeFrame_writeWord_retire s (w.address s.cfg) (s.getX rs2)
  have hmem := sameMemory_writeWord_address hp w (s.getX rs2)
  have hmtime := mtime_writeWord_address hp w (s.getX rs2)
  have hmtimecmp := mtimecmp_writeWord_address hp w (s.getX rs2)
  simp only [← TimerWord.address_inj hp] at hmtime hmtimecmp
  exact ⟨_, hexec, hmtime, hmtimecmp, hframe.regs, ⟨hmem.bytes, hmem.stored⟩, hframe.csrs, hframe.trapState, hframe.inputs,
    hframe.deferral, hframe.retired⟩

/-! ### The step that runs the decoded instruction (R270, R130) -/

theorem fetch_parcel {s : State} (h : ParcelFetchable s s.pc) (hc : isCompressed (s.parcelAt s.pc) = true)
    (hext : s.cfg.extC = true) : s.fetch = .bits (.parcel (s.parcelAt s.pc)) := by
  simp [State.fetch, h.allowed, parcelRefusal_fetchable h, hc, hext]

theorem fetchSecond_fetchable {s : State} (h : SecondParcelFetchable s) (p : Parcel) :
    s.fetchSecond p =
      .bits (if isCompressed p then .parcel p else .word (s.parcelAt (s.pc + 2#32) ++ p)) := by
  have hrefusal := parcelRefusal_fetchable h.parcel
  rw [State.fetchSecond, if_neg (Nat.not_lt.mpr h.noWrap)]
  cases isCompressed p <;> simp [byteAddress, h.parcel.allowed, h.span, hrefusal]

/-- The word at `pc` is its four bytes, the lowest address least significant (R121). -/
theorem word_of_parcelsAtPc (s : State) :
    s.parcelAt (s.pc + 2#32) ++ s.parcelAt s.pc =
      s.byteAt (s.pc + 3#32) ++ s.byteAt (s.pc + 2#32) ++ s.byteAt (s.pc + 1#32) ++ s.byteAt s.pc := by
  have hlast : s.pc + 2#32 + 1#32 = s.pc + 3#32 := BitVec.add_assoc _ _ _
  simp only [State.parcelAt, byteAddress, hlast]
  exact BitVec.append_assoc'

/-- What the bytes at `pc` decode to is a parcel or a word that decodes to it. -/
theorem decode_bytesAtPc {s : State} {i : Instr} {rest : List Byte} (h : decode (bytesAtPc s) = .instr i rest) :
    (isCompressed (s.parcelAt s.pc) = true ∧ decodeParcel (s.parcelAt s.pc) = .instr i) ∨
    (isCompressed (s.parcelAt s.pc) = false ∧
      decodeWord (s.parcelAt (s.pc + 2#32) ++ s.parcelAt s.pc) = .instr i ∧ i ≠ .cEbreak) := by
  rcases ite_answer h with ⟨hc, h⟩ | ⟨hc, h⟩
  · exact .inl ⟨hc, (followedBy_eq_instr h).1⟩
  · have hd := (followedBy_eq_instr h).1
    rw [← word_of_parcelsAtPc] at hd
    exact .inr ⟨Bool.eq_false_iff.mpr hc, hd, (decodeWord_eq_instr_iff.mp hd).ne_cEbreak⟩

/-- Fetch delivers the bits of the instruction that the bytes at `pc` decode to. -/
theorem fetch_of_decode {s : State} {i : Instr} {rest : List Byte} (h : decode (bytesAtPc s) = .instr i rest)
    (hfirst : ParcelFetchable s s.pc) (hsecond : (i = .cEbreak ∧ s.cfg.extC = true) ∨ SecondParcelFetchable s) :
    ∃ raw, s.fetch = .bits raw ∧ decodeRaw raw = .instr i := by
  rcases decode_bytesAtPc h with ⟨hc, hd⟩ | ⟨hc, hd, hi⟩
  · cases hext : s.cfg.extC with
    | true => exact ⟨_, fetch_parcel hfirst hc hext, hd⟩
    | false =>
      have hsnd : SecondParcelFetchable s := hsecond.resolve_left (by simp [hext])
      refine ⟨_, (fetch_twoParcels hfirst (.inr hext)).trans (fetchSecond_fetchable hsnd _), ?_⟩
      rwa [if_pos hc]
  · have hsnd : SecondParcelFetchable s := hsecond.resolve_left (by simp [hi])
    have htwo : TakesTwoParcels s := .inl (by simpa [isCompressed_parcelAt] using hc)
    refine ⟨_, (fetch_twoParcels hfirst htwo).trans (fetchSecond_fetchable hsnd _), ?_⟩
    rwa [if_neg (by simp [hc])]

theorem step_runDecoded {s : State} {raw : RawInstr} (hn : NoEvent s) (hf : s.fetch = .bits raw) :
    step s = (s.runDecoded (decodeRaw raw)).tick := by
  rw [step_instruction hn, State.runInstruction, hf]

theorem registersExist_iff (cfg : Config.Params) (i : Instr) :
    registersExist cfg i = true ↔ cfg.baseE = false ∨ ∀ r ∈ namedRegisters i, r.toNat < 16 := by
  simp [registersExist]

/-- Settles O6: fetch delivers the instruction, and the registers it names decide whether it executes. -/
theorem stepRunsTheDecodedInstruction : Obligations.StepRunsTheDecodedInstruction := by
  intro s i rest hn hdec hfirst hsecond
  obtain ⟨raw, hf, hd⟩ := fetch_of_decode hdec hfirst hsecond
  have hstep := step_runDecoded hn hf
  rw [hd, State.runDecoded] at hstep
  refine ⟨fun hregs => ?_, fun hE ⟨r, hr, hlarge⟩ => ⟨s.raise .illegalInstruction, ?_, trapTaken_raise s _⟩⟩
  · rwa [if_pos ((registersExist_iff _ _).mpr hregs)] at hstep
  · have hnot : ¬ registersExist s.cfg i = true := by
      rw [registersExist_iff]
      rintro (hI | hsmall)
      · simp [hE] at hI
      · exact absurd (hsmall r hr) (Nat.not_lt.mpr hlarge)
    rwa [if_neg hnot] at hstep

/-! ### LUI, AUIPC and ADDI (R274 to R276) -/

/-- Settles O34: the word is the encoding of LUI, which writes `rd` and retires. -/
theorem luiResult : Obligations.LuiResult := fun s rd _ =>
  ⟨Instr.EncodesTo.decodeWord_eq ⟨rfl, rfl⟩, _, rfl, computes_setX_retire s rd _⟩

/-- Settles O35: the word is the encoding of AUIPC, which writes `rd` and retires. -/
theorem auipcResult : Obligations.AuipcResult := fun s rd _ =>
  ⟨Instr.EncodesTo.decodeWord_eq ⟨rfl, rfl⟩, _, rfl, computes_setX_retire s rd _⟩

/-- Settles O36: the word is the encoding of ADDI, which writes `rd` and retires. -/
theorem addiResult : Obligations.AddiResult := fun s rd _ _ =>
  ⟨Instr.EncodesTo.decodeWord_eq ⟨rfl, rfl⟩, _, rfl, computes_setX_retire s rd _⟩

/-! ### JAL and BNE (R281, R282) -/

theorem jumpTo_aligned {s : State} {target : Word} (h : ialigned s.cfg target = true) (link : Reg) (ret : Word) :
    s.jumpTo target link ret = (s.setX link ret).retireTo target := by
  simp [State.jumpTo, h]

theorem onlyRegisters_setX_retireTo (s : State) (link : Reg) (ret target : Word) :
    OnlyRegisters s ((s.setX link ret).retireTo target) where
  memory := ⟨byteAt_of_mem (by simp), by simp⟩
  csrs := by constructor <;> simp
  trapState := by constructor <;> simp
  inputs := by constructor <;> simp
  timer := by constructor <;> simp
  deferral := by constructor <;> simp

theorem onlyRegisters_retireTo (s : State) (target : Word) : OnlyRegisters s (s.retireTo target) := by
  simpa using onlyRegisters_setX_retireTo s 0#5 0#32 target

theorem exec_jal_aligned {s : State} {offset : BitVec 21} (hal : ialigned s.cfg (s.jalTarget offset) = true) (rd : Reg) :
    exec (.jal rd offset) s = .next ((s.setX rd (s.pc + 4#32)).retireTo (s.jalTarget offset)) := by
  simp [exec, execJal, jumpTo_aligned hal]

/-- Settles O44: past the check of the target JAL writes `rd` and retires there. -/
theorem jalJumps : Obligations.JalJumps := by
  rintro s rd offset _ rfl hal
  exact ⟨_, exec_jal_aligned hal rd, ⟨getX_setX_same s rd _, fun _ hr => getX_setX_other s _ hr⟩,
    onlyRegisters_setX_retireTo s rd _ _, rfl, by simp⟩

theorem exec_bne_taken {s : State} {rs1 rs2 : Reg} {offset : BitVec 13} (hne : s.getX rs1 ≠ s.getX rs2)
    (hal : ialigned s.cfg (s.branchTarget offset) = true) :
    exec (.bne rs1 rs2 offset) s = .next (s.retireTo (s.branchTarget offset)) := by
  simp [exec, execBne, hne, jumpTo_aligned hal]

theorem exec_bne_not_taken {s : State} {rs1 rs2 : Reg} (heq : s.getX rs1 = s.getX rs2) (offset : BitVec 13) :
    exec (.bne rs1 rs2 offset) s = .next (s.retireTo (s.pc + 4#32)) := by
  simp [exec, execBne, heq, State.retire]

/-- Settles O45: BNE writes no register and retires, at the target or at the next instruction. -/
theorem bneBranches : Obligations.BneBranches := by
  rintro s rs1 rs2 offset _ rfl
  refine ⟨fun hne hal => ?_, fun heq => ?_⟩
  · exact ⟨_, exec_bne_taken hne hal, getX_retireTo s _, onlyRegisters_retireTo s _, rfl, rfl⟩
  · exact ⟨_, exec_bne_not_taken heq offset, getX_retireTo s _, onlyRegisters_retireTo s _, rfl, rfl⟩

end Sys2Proof.Machine

/-! PROOFS. Exceptions and interrupts (60_exceptions.md): the event a boundary takes, the interrupt test after an MRET or a CSR
write, what a step does to the count of retired instructions and to the WFI stall, the platform's tick, and the return from an
exception. -/

namespace Sys2Proof.Machine

open Sys2Proof.Safety

/-! ### A boundary that takes an event (R313) -/

theorem step_event {s u : State} (hs : s.wfiStalled = false) (he : s.takeEvent = some u) : step s = .next u.tick := by
  simp [step, State.runBoundary, hs, he]

theorem takeEvent_of_nmi {s : State} {v : Word} (hv : s.nmiDue = some v) : s.takeEvent = some (s.nmiEntry v) := by
  simp [State.takeEvent, hv]

/-- An event at a boundary retires nothing: the instruction at `pc` has not run (R331, R348). -/
theorem minstret_of_takeEvent {s u : State} (h : s.takeEvent = some u) : u.minstret = s.minstret := by
  rcases takeEvent_cases s with ⟨v, _, he⟩ | ⟨i, _, _, he⟩ | ⟨_, _, he⟩ <;> rw [he] at h <;> cases h
  · exact nmiEntry_minstret s v
  · exact interruptEntry_minstret s i

/-! ### Maskable interrupts (R312, R320, R330) -/

theorem takeable_iff (s : State) : s.takeable = true ↔
    s.mstatusMie = true ∧ ((s.mieMeie = true ∧ s.extIrq = true) ∨ (s.mieMtie = true ∧ s.mtipLine = true)) := by
  simp [State.takeable, State.pendingEnabled]

theorem takeable_eq_false_iff (s : State) : s.takeable = false ↔
    s.mstatusMie = false ∨ ((s.mieMeie = false ∨ s.extIrq = false) ∧ (s.mieMtie = false ∨ s.mtipLine = false)) := by
  simp only [State.takeable, State.pendingEnabled, Bool.and_eq_false_iff, Bool.or_eq_false_iff]

/-- A takeable interrupt that is let pass no longer is taken, with everything trap entry does. -/
theorem step_takes_firstInterrupt {s : State} (hs : s.wfiStalled = false) (hn : s.nmiDue = none) (ht : s.takeable = true)
    (hd : s.irqDelay = 0) : ∃ t, step s = .next t.tick ∧ TrapTaken s t s.firstInterrupt.cause s.pc := by
  have he : s.takeEvent = some (s.interruptEntry s.firstInterrupt) := by
    rw [takeEvent_of_no_nmi hn, interruptDue_of_takeable ht hd, Option.map_some]
  exact ⟨_, step_event hs he, trapTaken_interruptEntry s s.firstInterrupt⟩

/-- Settles O10: either source makes an interrupt takeable, and the external one decides which goes first. -/
theorem interruptIsTaken : Obligations.InterruptIsTaken := by
  intro s hs hn hmie hd
  refine ⟨fun ⟨hen, hext⟩ => ?_, fun ⟨hno, hen, hline⟩ => ?_⟩
  · have ht : s.takeable = true := (takeable_iff s).mpr ⟨hmie, .inl ⟨hen, hext⟩⟩
    have hcause : s.firstInterrupt.cause = 0x8000000B#32 := by simp [cause_firstInterrupt, hen, hext]
    exact hcause ▸ step_takes_firstInterrupt hs hn ht hd
  · have ht : s.takeable = true := (takeable_iff s).mpr ⟨hmie, .inr ⟨hen, hline⟩⟩
    have hcause : s.firstInterrupt.cause = 0x80000007#32 := by
      rw [cause_firstInterrupt, if_neg]
      rcases hno with h | h <;> simp [h]
    exact hcause ▸ step_takes_firstInterrupt hs hn ht hd

/-- Settles O11: what is not takeable is not due, and nothing else comes before the instruction at `pc`. -/
theorem noInterruptUnlessTakeable : Obligations.NoInterruptUnlessTakeable := by
  intro s hs hn hoff
  have ht : s.takeable = false := (takeable_eq_false_iff s).mpr hoff
  exact step_instruction ⟨hs, hn, interruptDue_of_not_takeable ht⟩

/-! ### NMIs (R335) -/

theorem nmiDue_of_pending {s : State} (hp : s.nmiPending = true) : s.nmiDue = s.cfg.nmi := if_pos hp

theorem contextKept_nmiEntry {s b : State} (hb : EventPoint s b) (v : Word) : ContextKept s (b.nmiEntry v) := by
  cases hb <;> exact contextKept_of_shape rfl

/-- An NMI ends a WFI stall: the WFI completes, and the NMI is taken just past it (R255). -/
theorem step_stalled_nmi {s : State} {v : Word} (hs : s.wfiStalled = true) (hv : s.nmiDue = some v) :
    step s = .next (s.wfiComplete.nmiEntry v).tick := by
  have hw : s.wakes = true := by simp [State.wakes, hv]
  rw [step_stalled hs, State.stalledBoundary, if_pos hw, takeEvent_of_nmi (s := s.wfiComplete) hv, Option.getD_some]

/-- Settles O12: the NMI finds the hart at `pc`, or just past the WFI in which it was stalled. -/
theorem nmiIsTaken : Obligations.NmiIsTaken := by
  intro s v hp hcfg
  have hv : s.nmiDue = some v := (nmiDue_of_pending hp).trans hcfg
  cases hs : s.wfiStalled with
  | false =>
    exact ⟨s.nmiEntry v, step_event hs (takeEvent_of_nmi hv), rfl, rfl, rfl, rfl, fun _ => ⟨rfl, rfl⟩, nofun,
      contextKept_nmiEntry .atPc v⟩
  | true =>
    exact ⟨s.wfiComplete.nmiEntry v, step_stalled_nmi hs hv, rfl, rfl, rfl, rfl, nofun, fun _ => ⟨rfl, rfl⟩,
      contextKept_nmiEntry (.pastWfi hs) v⟩

/-! ### The immediate interrupt test (R324, R242) -/

theorem irqNow_csrCommit (s : State) (c : Csr) (v : Word) :
    (s.csrCommit c true v).irqNow = (c.inInterruptCondition || s.irqNow) := by
  simp [State.csrCommit]

/-- A CSR instruction that writes a register on which the interrupt conditions depend asks for the immediate test; the
addresses of these registers allow the write. -/
theorem irqNow_execCsr {s t : State} {a : CsrAddr} {c : Csr} (h : lookupCsr s.cfg a = .present c)
    (hc : c.inInterruptCondition = true) {writes : Bool} (hw : writes = true) {op : CsrOp} {rd : Reg} {src : Word}
    (hx : s.execCsr op rd a writes src = .next t) : t.irqNow = true := by
  subst hw
  have hro : csrReadOnly a = false := interruptCsr_writable a c (lookupCsr_present h) hc
  rw [execCsr_present h (fun _ => hro)] at hx
  cases hx
  simp [irqNow_csrCommit, hc]

/-- Settles O13: an MRET and each form that writes such a CSR ask for the immediate test, which defers nothing. -/
theorem immediateInterruptTest : Obligations.ImmediateInterruptTest := by
  intro s t i hx hi ht
  have hnow : t.irqNow = true := by
    rcases hi with rfl | ⟨c, hc, hform⟩
    · cases hx
      exact trapReturn_irqNow s
    · have hcond : c.inInterruptCondition = true := by rcases hc with rfl | rfl | rfl <;> rfl
      rcases hform with ⟨rd, a, rs1, rfl, hl⟩ | ⟨rd, a, rs1, hne, rfl | rfl, hl⟩ | ⟨rd, a, uimm, rfl, hl⟩ |
        ⟨rd, a, uimm, hne, rfl | rfl, hl⟩
      · exact irqNow_execCsr hl hcond rfl hx
      · exact irqNow_execCsr hl hcond (bne_iff_ne.mpr hne) hx
      · exact irqNow_execCsr hl hcond (bne_iff_ne.mpr hne) hx
      · exact irqNow_execCsr hl hcond rfl hx
      · exact irqNow_execCsr hl hcond (bne_iff_ne.mpr hne) hx
      · exact irqNow_execCsr hl hcond (bne_iff_ne.mpr hne) hx
  simp [interruptDue_tick_of_irqNow hnow ht]

/-! ### What a step does to `minstret` (R348) -/

/-- An instruction other than a CSR instruction counts one, or, where it traps or stalls, none. -/
theorem ExecShape.minstret_cases {i : Instr} {s u : State} (h : ExecShape i s u) :
    u.minstret = s.minstret ∨ u.minstret = s.minstret + 1 ∨ isCsrInstr i = true := by
  cases h with
  | csr hi => exact .inr (.inr hi)
  | trap _ h | stall _ h => subst h; exact .inl rfl
  | _ => subst u; exact .inr (.inl (by simp))

theorem EventPoint.minstret_cases {s b : State} (hb : EventPoint s b) :
    b.minstret = s.minstret ∨ b.minstret = s.minstret + 1 := by
  cases hb with
  | atPc => exact .inl rfl
  | pastWfi => exact .inr rfl

theorem StepEffect.minstret_cases {s u : State} (h : StepEffect s u) :
    u.minstret = s.minstret ∨ u.minstret = s.minstret + 1 ∨ ∃ i, RunsAt s i ∧ isCsrInstr i = true := by
  cases h with
  | idle h | raise _ h => subst h; exact .inl rfl
  | wake h => subst h; exact .inr (.inl rfl)
  | nmi _ hb _ _ h | interrupt _ hb _ h => subst h; exact hb.minstret_cases.imp_right .inl
  | instr i hr h => exact h.minstret_cases.imp_right (.imp_right fun hi => ⟨i, hr, hi⟩)

/-- Settles O58: every effect of a step counts at most one instruction, an event by itself none, and the tick none. -/
theorem minstretCountsRetirement : Obligations.MinstretCountsRetirement := by
  refine ⟨fun s t h => ?_, fun s t u hs he h => ?_⟩
  · obtain ⟨u, rfl, hu⟩ := step_effect h
    exact hu.minstret_cases
  · rw [step_event hs he] at h
    cases h
    exact (tick_minstret u).trans (minstret_of_takeEvent he)

/-! ### What a step does to the WFI stall (R255, R353) -/

/-- WFI alone stalls. -/
theorem ExecShape.eq_wfi_of_stalls {i : Instr} {s u : State} (h : ExecShape i s u) (h0 : s.wfiStalled = false)
    (h1 : u.wfiStalled = true) : i = .wfi := by
  cases h with
  | stall hi => exact hi
  | _ => subst u; simp [h0] at h1

theorem StepEffect.runs_wfi_of_stalls {s u : State} (h : StepEffect s u) (h0 : s.wfiStalled = false)
    (h1 : u.wfiStalled = true) : RunsAt s .wfi := by
  cases h with
  | idle h | wake h | nmi _ _ _ _ h | interrupt _ _ _ h | raise _ h => subst h; simp [h0] at h1
  | instr i hr h => exact h.eq_wfi_of_stalls h0 h1 ▸ hr

theorem contextKept_interruptEntry {s b : State} (hb : EventPoint s b) (i : Interrupt) :
    ContextKept s (b.interruptEntry i) := by
  cases hb <;> exact contextKept_of_shape rfl

/-- A stalled hart runs no instruction, and every other effect of a step leaves the context alone. -/
theorem StepEffect.contextKept_of_stalled {s u : State} (h : StepEffect s u) (hs : s.wfiStalled = true) :
    ContextKept s u := by
  cases h with
  | idle h | wake h | raise _ h => subst h; exact contextKept_of_shape rfl
  | nmi _ hb v _ h => subst h; exact contextKept_nmiEntry hb v
  | interrupt _ hb i h => subst h; exact contextKept_interruptEntry hb i
  | instr _ hr _ => exact absurd hr.noEvent.notStalled (by simp [hs])

/-- Settles O59: the tick neither begins a stall nor writes a register or memory, so what counts is the effect before it. -/
theorem stallsBeginOnlyWithWfi : Obligations.StallsBeginOnlyWithWfi := by
  refine ⟨fun s t h h0 h1 => ?_, fun s t h hs => ?_⟩
  · obtain ⟨u, rfl, hu⟩ := step_effect h
    exact hu.runs_wfi_of_stalls h0 h1
  · obtain ⟨u, rfl, hu⟩ := step_effect h
    obtain ⟨hregs, hmem, _⟩ := hu.contextKept_of_stalled hs
    exact ⟨hregs, hmem.bytes, hmem.stored⟩

/-! ### The platform's tick (R321, R341, R343, R347) -/

theorem sameTrapState_tick (s : State) : SameTrapState s s.tick := by constructor <;> rfl

theorem sameMemory_tick (s : State) : SameMemory s s.tick := ⟨byteAt_of_mem (tick_mem s), tick_stored s⟩

/-- Settles O7: the tick's value for each field that it moves, and its frame for the rest. -/
theorem tickMovesOnlyThePlatform : Obligations.TickMovesOnlyThePlatform := by
  intro s
  have hno : s.cfg.nmi = none → s.tick.nmiPending = false := fun h => by simp [h]
  have hsome : ∀ v, s.cfg.nmi = some v → s.tick.nmiPending = s.drawNow.nmi := fun v h => by simp [h]
  exact ⟨tick_mtime s, tick_mcycle s, tick_extIrq s, hno, hsome, tick_mtimecmp s, tick_pc s, tick_minstret s,
    getX_tick s, sameMemory_tick s, sameTrapState_tick s, tick_mtvecBase s, tick_mieMeie s, tick_mieMtie s,
    tick_mscratch s, tick_pmpcfg s, tick_pmpaddr s, tick_cfg s⟩

/-- The comparison of the timer is the one of the two registers as natural numbers (R343). -/
theorem timerCondition_eq (mtime mtimecmp : Dword) :
    timerCondition mtime mtimecmp = decide (mtimecmp.toNat ≤ mtime.toNat) := rfl

theorem tick_mtipLine (s : State) :
    s.tick.mtipLine = nextMtipLine s.mtipLine (timerCondition s.tick.mtime s.mtimecmp) s.mtipDelay := rfl

theorem tick_mtipDelay (s : State) :
    s.tick.mtipDelay =
      nextMtipDelay s.tick.mtipLine (timerCondition s.tick.mtime s.mtimecmp) s.mtipDelay s.drawNow.mtipDelay := rfl

theorem nextMtipLine_agree {line cmp : Bool} (h : line = cmp) (delay : Nat) : nextMtipLine line cmp delay = line :=
  if_pos h

theorem nextMtipLine_expired {line cmp : Bool} (h : line ≠ cmp) : nextMtipLine line cmp 0 = !line := by
  rw [nextMtipLine, if_neg h, if_pos rfl, Bool.eq_not_of_ne h.symm]

theorem nextMtipLine_waiting {line cmp : Bool} {delay : Nat} (hd : 0 < delay) : nextMtipLine line cmp delay = line := by
  rw [nextMtipLine, if_neg hd.ne', ite_self]

theorem nextMtipDelay_differ {line cmp : Bool} (h : line ≠ cmp) (delay drawn : Nat) :
    nextMtipDelay line cmp delay drawn = delay - 1 := if_neg h

/-- Settles O15: the line and its delay follow the cases of agreement, delay run out, and delay still running. -/
theorem timerLineFollowsTheComparison : Obligations.TimerLineFollowsTheComparison := by
  intro s
  rw [← timerCondition_eq]
  refine ⟨fun h => ?_, fun hne hd => ?_, fun hne hd => ?_⟩
  · rw [tick_mtipLine, nextMtipLine_agree h]
  · rw [tick_mtipLine, hd, nextMtipLine_expired hne]
  · have hline : s.tick.mtipLine = s.mtipLine := by rw [tick_mtipLine, nextMtipLine_waiting hd]
    exact ⟨hline, by rw [tick_mtipDelay, hline, nextMtipDelay_differ hne]⟩

/-! ### An exception and its return (R330, R253, R336) -/

theorem contextKept_trapReturn_raise (s : State) (e : Exception) : ContextKept s (s.raise e).trapReturn :=
  contextKept_of_shape rfl

/-- Settles O32: trap entry saves `pc` and MIE where the return takes them from. -/
theorem trapThenMretRestores : Obligations.TrapThenMretRestores := by
  intro s e
  obtain ⟨hregs, hmem, hcsrs, _⟩ := contextKept_trapReturn_raise s e
  exact ⟨(s.raise e).trapReturn, rfl, rfl, rfl, rfl, rfl, rfl, hregs, hmem, hcsrs⟩

end Sys2Proof.Machine

/-! PROOFS. Reset and hazards (70_reset_and_hazards.md): the machine starts within its invariant. -/

namespace Sys2Proof.Safety

open Sys2Proof.Machine

/-- The reset address is an instruction address under both values of IALIGN (R80, R21). -/
theorem ialigned_resetPc (cfg : Config.Params) : ialigned cfg 0x80000000#32 = true := by
  unfold ialigned
  split <;> rfl

/-- The reset value of `mcause` is one it supports (R370, R46). -/
theorem mcauseLegal_zero : mcauseLegal 0#32 = true := mcauseLegal_of_hardwareCause (.inl (Nat.zero_le 7))

/-- Settles O52: `pc` and `mcause` have fixed reset values, `mepc` is arbitrary but legal and so aligned, and the marking is
empty; the other parts of the invariant are said of reset itself. -/
theorem resetStatesSatisfyTheInvariant : Obligations.ResetStatesSatisfyTheInvariant := fun s hs =>
  { hs with
    storedRising := hs.nothingStored ▸ .nil
    pcAligned := hs.pc ▸ ialigned_resetPc s.cfg
    mepcAligned := hs.mepcLegal ▸ ialigned_mepcLegal s.cfg s.mepc
    privMachine := hs.priv
    mcauseSupported := hs.mcause ▸ mcauseLegal_zero }

end Sys2Proof.Safety

/-! PROOFS. The finite delays and the rest (42_base_subset.md, 60_exceptions.md, 70_reset_and_hazards.md): the fences, the
countdown of a deferred interrupt, the clock that does not stop, and the model's own reset state. -/

namespace Sys2Proof.Machine

open Sys2Proof.Safety

/-! ### FENCE and FENCE.I (R279, R280, R143) -/

/-- Settles O37: FENCE is retirement alone; FENCE.I empties the marking before it. -/
theorem fencesRetire : Obligations.FencesRetire := by
  refine ⟨fun s _ _ _ _ _ => ?_, fun s _ _ _ => ?_⟩
  · exact ⟨s.retire, rfl, getX_retireTo s _, onlyRegisters_retireTo s _, rfl, rfl⟩
  · exact ⟨{ s with stored := [] }.retire, rfl, getX_of_gpr rfl, rfl, byteAt_of_mem rfl, by constructor <;> rfl,
      by constructor <;> rfl, by constructor <;> rfl, by constructor <;> rfl, by constructor <;> rfl, rfl, rfl⟩

/-! ### The deferral of an interrupt (R323) -/

/-- No instruction lengthens the deferral: a WFI that completes ends it, and every other one leaves it to the tick. -/
theorem ExecShape.irqDelay_le {i : Instr} {s u : State} (h : ExecShape i s u) : u.irqDelay ≤ s.irqDelay := by
  cases h with
  | wake _ h => subst h; exact Nat.zero_le _
  | _ => subst u; simp

theorem irqDelay_le_of_runInstruction {s u : State} (h : s.runInstruction = .next u) : u.irqDelay ≤ s.irqDelay := by
  rcases runInstruction_next h with ⟨_, _, _, _, _, hx⟩ | rfl | rfl
  · exact (exec_shape hx).irqDelay_le
  · exact (raise_irqDelay s _).le
  · exact (raise_irqDelay s _).le

/-- A deferral is drawn anew only where an interrupt becomes takeable, not where one already is. -/
theorem nextIrqDelay_le_of_takeable {u : State} (h : u.takeable = true) (v : State) :
    nextIrqDelay u v ≤ u.irqDelay - 1 := by
  unfold nextIrqDelay
  split
  · exact Nat.zero_le _
  · simp [h]

/-- Settles O14: the instruction does not lengthen the deferral, and the tick counts it down. -/
theorem interruptDeferralIsFinite : Obligations.InterruptDeferralIsFinite := by
  intro s u hrun ht hpos
  calc u.tick.irqDelay
      ≤ u.irqDelay - 1 := nextIrqDelay_le_of_takeable ht u.advancePlatform
    _ ≤ s.irqDelay - 1 := Nat.sub_le_sub_right (irqDelay_le_of_runInstruction hrun) 1
    _ < s.irqDelay := Nat.sub_one_lt_of_lt hpos

/-! ### Only a store reaches `mtime` (R278, R341) -/

theorem mtime_jumpTo (s : State) (target : Word) (link : Reg) (ret : Word) : (s.jumpTo target link ret).mtime = s.mtime := by
  rcases jumpTo_cases s target link ret with ⟨_, h⟩ | ⟨_, h⟩ <;> simp [h]

theorem mtime_execCsr {s t : State} {op : CsrOp} {rd : Reg} {a : CsrAddr} {writes : Bool} {src : Word}
    (h : s.execCsr op rd a writes src = .next t) : t.mtime = s.mtime := by
  rcases execCsr_cases s op rd a writes src with ⟨e, _⟩ | ⟨_, e, _⟩ | ⟨_, _, _, e⟩ <;> rw [e] at h <;> cases h <;> simp

theorem mtime_execLw {s t : State} {rd rs1 : Reg} {imm12 : BitVec 12} (h : execLw rd rs1 imm12 s = .next t) :
    t.mtime = s.mtime := by
  unfold execLw at h
  split at h <;> cases h <;> simp

theorem mtime_exec {i : Instr} {s t : State} (h : exec i s = .next t) :
    t.mtime = s.mtime ∨ ∃ rs2 rs1 imm12, i = .sw rs2 rs1 imm12 := by
  cases i with
  | sw rs2 rs1 imm12 => exact .inr ⟨rs2, rs1, imm12, rfl⟩
  | csrrw | csrrs | csrrc | csrrwi | csrrsi | csrrci => exact .inl (mtime_execCsr h)
  | lw => exact .inl (mtime_execLw h)
  | lui | auipc | addi => cases h; exact .inl (setX_mtime s _ _)
  | jal => cases h; exact .inl (mtime_jumpTo s _ _ _)
  | bne => cases h; split <;> exact .inl (by simp [mtime_jumpTo])
  | wfi => cases h; split <;> exact .inl rfl
  | _ => cases h; exact .inl rfl

/-! ### The clock (R341, R392) -/

theorem contextKept_of_takeEvent {s b u : State} (hb : EventPoint s b) (h : b.takeEvent = some u) : ContextKept s u := by
  rcases takeEvent_cases b with ⟨v, _, he⟩ | ⟨i, _, _, he⟩ | ⟨_, _, he⟩ <;> rw [he] at h <;> cases h
  · exact contextKept_nmiEntry hb v
  · exact contextKept_interruptEntry hb i

theorem contextKept_stalledBoundary {s : State} (hs : s.wfiStalled = true) : ContextKept s s.stalledBoundary := by
  rcases stalledBoundary_cases s with ⟨_, h⟩ | ⟨_, _, h⟩ | ⟨u, _, he, h⟩ <;> rw [h]
  · exact contextKept_of_shape rfl
  · exact contextKept_wfiComplete s
  · exact contextKept_of_takeEvent (.pastWfi hs) he

/-- Before its tick a step leaves the context alone, or it has executed an instruction. -/
theorem StepShape.contextKept_or_exec {s u : State} (h : StepShape s u) :
    ContextKept s u ∨ ∃ i, RunsAt s i ∧ exec i s = .next u := by
  cases h with
  | stalled hs h => exact .inl (h ▸ contextKept_stalledBoundary hs)
  | event _ he => exact .inl (contextKept_of_takeEvent .atPc he)
  | instr i hr hx => exact .inr ⟨i, hr, hx⟩
  | trap e _ h => exact .inl (h ▸ contextKept_of_shape rfl)

/-- No instruction moves the inputs, the countdowns of the timer or the draws still to come. -/
theorem ExecShape.sameInputs {i : Instr} {s u : State} (h : ExecShape i s u) : SameInputs s u := by
  cases h <;> subst u <;> constructor <;> simp

theorem StepShape.sameInputs {s u : State} (h : StepShape s u) : SameInputs s u := by
  rcases h.contextKept_or_exec with ⟨_, _, _, hinputs, _⟩ | ⟨_, _, hx⟩
  · exact hinputs
  · exact (exec_shape hx).sameInputs

theorem StepShape.mtime_cases {s u : State} (h : StepShape s u) :
    u.mtime = s.mtime ∨ ∃ rs2 rs1 imm12, RunsAt s (.sw rs2 rs1 imm12) := by
  rcases h.contextKept_or_exec with ⟨_, _, _, _, htimer⟩ | ⟨_, hr, hx⟩
  · exact .inl htimer.mtime
  · refine (mtime_exec hx).imp_right ?_
    rintro ⟨rs2, rs1, imm12, rfl⟩
    exact ⟨rs2, rs1, imm12, hr⟩

/-- A stalled hart runs no instruction, so also no store. -/
theorem StepShape.mtime_eq_of_stalled {s u : State} (h : StepShape s u) (hs : s.wfiStalled = true) : u.mtime = s.mtime := by
  rcases h.mtime_cases with hm | ⟨_, _, _, hr⟩
  · exact hm
  · exact absurd hr.noEvent.notStalled (by simp [hs])

theorem drawNow_of_sameInputs {s u : State} (h : SameInputs s u) : u.drawNow = s.drawNow := by
  simp only [State.drawNow, h.trace, h.boundary]

/-- The tick after a step advances `mtime` by what the state before the step says. -/
theorem mtime_tick_of_sameInputs {s u : State} (h : SameInputs s u) :
    u.tick.mtime = u.mtime + BitVec.ofNat 64 (mtimeAdvance s.mtimeWait s.drawNow.mtimeTicks) := by
  rw [tick_mtime, h.mtimeWait, drawNow_of_sameInputs h]

theorem nextMtimeWait_waiting {wait : Nat} (h : 0 < wait) (drawn : Nat) : nextMtimeWait wait drawn = wait - 1 :=
  if_neg h.ne'

theorem mtimeAdvance_expired (drawn : Nat) : mtimeAdvance 0 drawn = drawn + 1 := if_pos rfl

/-- Settles O16: a step leaves the wait and the draw to the tick, and `mtime` too unless it runs a SW. -/
theorem clockDoesNotStop : Obligations.ClockDoesNotStop := by
  refine ⟨fun s t h hpos => ?_, fun s t h hzero => ?_, fun s t h hs => ?_⟩ <;> obtain ⟨u, rfl, hu⟩ := step_shape h
  · rw [tick_mtimeWait, hu.sameInputs.mtimeWait, nextMtimeWait_waiting hpos]
  · refine hu.mtime_cases.imp_left fun hm => ?_
    rw [mtime_tick_of_sameInputs hu.sameInputs, hm, hzero, mtimeAdvance_expired]
  · rw [mtime_tick_of_sameInputs hu.sameInputs, hu.mtime_eq_of_stalled hs, mtimeAdvance]

end Sys2Proof.Machine

namespace Sys2Proof.Safety

open Sys2Proof.Machine

/-! ### The model's reset state (R370, R80, D11) -/

/-- The parameters chosen for reset: aligned and disjoint timer addresses, and no NMI vector to align. -/
theorem paramsOk_atReset : ParamsOk Config.Params.atReset where
  mtimeAligned := rfl
  mtimecmpAligned := rfl
  timersDisjoint := by decide
  nmiVectorAligned := nofun

theorem reset_pmpcfg (i : Fin 8) : State.reset.pmpcfg[i] = 0#8 := Vector.getElem_replicate i.isLt

theorem reset_pmpaddr (i : Fin 8) : State.reset.pmpaddr[i] = 0#32 := Vector.getElem_replicate i.isLt

/-- Settles O53: the spec's values are the model's by definition; the PMP registers are all zero, memory is empty, and the
parameters meet their constraints. -/
theorem resetIsAResetState : Obligations.ResetIsAResetState where
  pc := rfl
  priv := rfl
  mie := rfl
  mcause := rfl
  pmpOff i := by rw [reset_pmpcfg]; rfl
  pmpUnlocked i := by rw [reset_pmpcfg]; rfl
  pmpLegal i := by rw [reset_pmpcfg]; rfl
  pmpaddrGrain i := by rw [reset_pmpaddr]; rfl
  mepcLegal := rfl
  notStalled := rfl
  nothingStored := rfl
  memCanonical := ⟨.nil, nofun⟩
  params := paramsOk_atReset

end Sys2Proof.Safety
